-- ==== Sys2Proof/Word.lean ====
section
/-! DEFINITION. The word types of the core: data, address and instruction width 32 bits (00_scope R8), register
numbers of 5 bits (30_encoding R302). -/

namespace Sys2Proof

/-- A 32-bit register, address or instruction (00_scope R8). -/
abbrev Word := BitVec 32

/-- One byte of memory. -/
abbrev Byte := BitVec 8

/-- A register number as an instruction names it (10_state R100, R140). -/
abbrev Reg := BitVec 5

end Sys2Proof
end

