-- ==== Sys2Proof/Syntax.lean ====
section
/-! DEFINITION. The syntax of the instruction set: one constructor per row of the opcode table (30_encoding R320 to
R325), with the operand fields the decoder looks at (30_encoding R303, R316). -/

namespace Sys2Proof

/-- The second operand of a format-3 integer instruction (30_encoding R310). -/
inductive Op2
  /-- i = 0: register rs2. -/
  | reg (rs2 : Reg)
  /-- i = 1: the immediate simm13, sign-extended where it is used (30_encoding R311). -/
  | imm (simm13 : BitVec 13)
  deriving DecidableEq, Repr

/-- The instructions: the mnemonic of each row of the opcode table, with the rule that gives its meaning. -/
inductive Instr
  /-- ADD (R510). -/
  | add (rd rs1 : Reg) (op2 : Op2)
  /-- ADDcc (R511). -/
  | addcc (rd rs1 : Reg) (op2 : Op2)
  /-- ADDX (R512). -/
  | addx (rd rs1 : Reg) (op2 : Op2)
  /-- ADDXcc (R513). -/
  | addxcc (rd rs1 : Reg) (op2 : Op2)
  /-- SUB (R514). -/
  | sub (rd rs1 : Reg) (op2 : Op2)
  /-- SUBcc (R515). -/
  | subcc (rd rs1 : Reg) (op2 : Op2)
  /-- SUBX (R516). -/
  | subx (rd rs1 : Reg) (op2 : Op2)
  /-- SUBXcc (R517). -/
  | subxcc (rd rs1 : Reg) (op2 : Op2)
  /-- AND (R520). -/
  | and (rd rs1 : Reg) (op2 : Op2)
  /-- ANDcc (R521). -/
  | andcc (rd rs1 : Reg) (op2 : Op2)
  /-- ANDN (R522). -/
  | andn (rd rs1 : Reg) (op2 : Op2)
  /-- ANDNcc (R523). -/
  | andncc (rd rs1 : Reg) (op2 : Op2)
  /-- OR (R524). -/
  | or (rd rs1 : Reg) (op2 : Op2)
  /-- ORcc (R525). -/
  | orcc (rd rs1 : Reg) (op2 : Op2)
  /-- ORN (R526). -/
  | orn (rd rs1 : Reg) (op2 : Op2)
  /-- ORNcc (R527). -/
  | orncc (rd rs1 : Reg) (op2 : Op2)
  /-- XOR (R528). -/
  | xor (rd rs1 : Reg) (op2 : Op2)
  /-- XORcc (R529). -/
  | xorcc (rd rs1 : Reg) (op2 : Op2)
  /-- XNOR (R530). -/
  | xnor (rd rs1 : Reg) (op2 : Op2)
  /-- XNORcc (R531). -/
  | xnorcc (rd rs1 : Reg) (op2 : Op2)
  /-- SLL (R535). -/
  | sll (rd rs1 : Reg) (op2 : Op2)
  /-- SRL (R536). -/
  | srl (rd rs1 : Reg) (op2 : Op2)
  /-- SRA (R537). -/
  | sra (rd rs1 : Reg) (op2 : Op2)
  /-- SETHI (R540). -/
  | sethi (rd : Reg) (imm22 : BitVec 22)
  /-- NOP (R541). -/
  | nop
  /-- TADDcc (R545). -/
  | taddcc (rd rs1 : Reg) (op2 : Op2)
  /-- TADDccTV (R546). -/
  | taddcctv (rd rs1 : Reg) (op2 : Op2)
  /-- TSUBcc (R547). -/
  | tsubcc (rd rs1 : Reg) (op2 : Op2)
  /-- TSUBccTV (R548). -/
  | tsubcctv (rd rs1 : Reg) (op2 : Op2)
  /-- MULScc (R550). -/
  | mulscc (rd rs1 : Reg) (op2 : Op2)
  /-- UMUL (R555). -/
  | umul (rd rs1 : Reg) (op2 : Op2)
  /-- SMUL (R556). -/
  | smul (rd rs1 : Reg) (op2 : Op2)
  /-- UMULcc (R557). -/
  | umulcc (rd rs1 : Reg) (op2 : Op2)
  /-- SMULcc (R558). -/
  | smulcc (rd rs1 : Reg) (op2 : Op2)
  /-- UDIV (R561). -/
  | udiv (rd rs1 : Reg) (op2 : Op2)
  /-- SDIV (R562). -/
  | sdiv (rd rs1 : Reg) (op2 : Op2)
  /-- UDIVcc (R563). -/
  | udivcc (rd rs1 : Reg) (op2 : Op2)
  /-- SDIVcc (R564). -/
  | sdivcc (rd rs1 : Reg) (op2 : Op2)
  /-- BA (R650). -/
  | ba (a : Bool) (disp22 : BitVec 22)
  /-- BN (R651). -/
  | bn (a : Bool) (disp22 : BitVec 22)
  /-- BNE (R652). -/
  | bne (a : Bool) (disp22 : BitVec 22)
  /-- BE (R653). -/
  | be (a : Bool) (disp22 : BitVec 22)
  /-- BG (R654). -/
  | bg (a : Bool) (disp22 : BitVec 22)
  /-- BLE (R655). -/
  | ble (a : Bool) (disp22 : BitVec 22)
  /-- BGE (R656). -/
  | bge (a : Bool) (disp22 : BitVec 22)
  /-- BL (R657). -/
  | bl (a : Bool) (disp22 : BitVec 22)
  /-- BGU (R658). -/
  | bgu (a : Bool) (disp22 : BitVec 22)
  /-- BLEU (R659). -/
  | bleu (a : Bool) (disp22 : BitVec 22)
  /-- BCC (R660). -/
  | bcc (a : Bool) (disp22 : BitVec 22)
  /-- BCS (R661). -/
  | bcs (a : Bool) (disp22 : BitVec 22)
  /-- BPOS (R662). -/
  | bpos (a : Bool) (disp22 : BitVec 22)
  /-- BNEG (R663). -/
  | bneg (a : Bool) (disp22 : BitVec 22)
  /-- BVC (R664). -/
  | bvc (a : Bool) (disp22 : BitVec 22)
  /-- BVS (R665). -/
  | bvs (a : Bool) (disp22 : BitVec 22)
  /-- FBA (R670). -/
  | fba (a : Bool) (disp22 : BitVec 22)
  /-- FBN (R671). -/
  | fbn (a : Bool) (disp22 : BitVec 22)
  /-- FBU (R672). -/
  | fbu (a : Bool) (disp22 : BitVec 22)
  /-- FBG (R673). -/
  | fbg (a : Bool) (disp22 : BitVec 22)
  /-- FBUG (R674). -/
  | fbug (a : Bool) (disp22 : BitVec 22)
  /-- FBL (R675). -/
  | fbl (a : Bool) (disp22 : BitVec 22)
  /-- FBUL (R676). -/
  | fbul (a : Bool) (disp22 : BitVec 22)
  /-- FBLG (R677). -/
  | fblg (a : Bool) (disp22 : BitVec 22)
  /-- FBNE (R678). -/
  | fbne (a : Bool) (disp22 : BitVec 22)
  /-- FBE (R679). -/
  | fbe (a : Bool) (disp22 : BitVec 22)
  /-- FBUE (R680). -/
  | fbue (a : Bool) (disp22 : BitVec 22)
  /-- FBGE (R681). -/
  | fbge (a : Bool) (disp22 : BitVec 22)
  /-- FBUGE (R682). -/
  | fbuge (a : Bool) (disp22 : BitVec 22)
  /-- FBLE (R683). -/
  | fble (a : Bool) (disp22 : BitVec 22)
  /-- FBULE (R684). -/
  | fbule (a : Bool) (disp22 : BitVec 22)
  /-- FBO (R685). -/
  | fbo (a : Bool) (disp22 : BitVec 22)
  /-- CALL (R620). -/
  | call (disp30 : BitVec 30)
  /-- JMPL (R621). -/
  | jmpl (rd rs1 : Reg) (op2 : Op2)
  /-- RETT (R642). -/
  | rett (rs1 : Reg) (op2 : Op2)
  /-- UNIMP (R645). -/
  | unimp (imm22 : BitVec 22)
  /-- SAVE (R700). -/
  | save (rd rs1 : Reg) (op2 : Op2)
  /-- RESTORE (R701). -/
  | restore (rd rs1 : Reg) (op2 : Op2)
  /-- RDY (R710). -/
  | rdy (rd : Reg)
  /-- RDPSR (R711). -/
  | rdpsr (rd : Reg)
  /-- RDWIM (R712). -/
  | rdwim (rd : Reg)
  /-- RDTBR (R713). -/
  | rdtbr (rd : Reg)
  /-- WRY (R720). -/
  | wry (rs1 : Reg) (op2 : Op2)
  /-- WRPSR (R721). -/
  | wrpsr (rs1 : Reg) (op2 : Op2)
  /-- WRWIM (R722). -/
  | wrwim (rs1 : Reg) (op2 : Op2)
  /-- WRTBR (R723). -/
  | wrtbr (rs1 : Reg) (op2 : Op2)
  /-- STBAR (R730). -/
  | stbar
  /-- FLUSH (R731). -/
  | flush (rs1 : Reg) (op2 : Op2)
  /-- LDSB (R805). -/
  | ldsb (rd rs1 : Reg) (op2 : Op2)
  /-- LDSH (R806). -/
  | ldsh (rd rs1 : Reg) (op2 : Op2)
  /-- LDUB (R807). -/
  | ldub (rd rs1 : Reg) (op2 : Op2)
  /-- LDUH (R808). -/
  | lduh (rd rs1 : Reg) (op2 : Op2)
  /-- LD (R809). -/
  | ld (rd rs1 : Reg) (op2 : Op2)
  /-- LDD (R810). -/
  | ldd (rd rs1 : Reg) (op2 : Op2)
  /-- STB (R811). -/
  | stb (rd rs1 : Reg) (op2 : Op2)
  /-- STH (R812). -/
  | sth (rd rs1 : Reg) (op2 : Op2)
  /-- ST (R813). -/
  | st (rd rs1 : Reg) (op2 : Op2)
  /-- STD (R814). -/
  | std (rd rs1 : Reg) (op2 : Op2)
  /-- LDSTUB (R815). -/
  | ldstub (rd rs1 : Reg) (op2 : Op2)
  /-- SWAP (R816). -/
  | swap (rd rs1 : Reg) (op2 : Op2)
  /-- LDF (R821). -/
  | ldf (rd rs1 : Reg) (op2 : Op2)
  /-- LDDF (R822). -/
  | lddf (rd rs1 : Reg) (op2 : Op2)
  /-- LDFSR (R823). -/
  | ldfsr (rs1 : Reg) (op2 : Op2)
  /-- STF (R824). -/
  | stf (rd rs1 : Reg) (op2 : Op2)
  /-- STDF (R825). -/
  | stdf (rd rs1 : Reg) (op2 : Op2)
  /-- STFSR (R826). -/
  | stfsr (rs1 : Reg) (op2 : Op2)
  /-- FMOVs (R910). -/
  | fmovs (rd rs2 : Reg)
  /-- FNEGs (R911). -/
  | fnegs (rd rs2 : Reg)
  /-- FABSs (R912). -/
  | fabss (rd rs2 : Reg)
  /-- FSQRTs (R913). -/
  | fsqrts (rd rs2 : Reg)
  /-- FSQRTd (R914). -/
  | fsqrtd (rd rs2 : Reg)
  /-- FADDs (R915). -/
  | fadds (rd rs1 rs2 : Reg)
  /-- FADDd (R916). -/
  | faddd (rd rs1 rs2 : Reg)
  /-- FSUBs (R917). -/
  | fsubs (rd rs1 rs2 : Reg)
  /-- FSUBd (R918). -/
  | fsubd (rd rs1 rs2 : Reg)
  /-- FMULs (R919). -/
  | fmuls (rd rs1 rs2 : Reg)
  /-- FMULd (R920). -/
  | fmuld (rd rs1 rs2 : Reg)
  /-- FDIVs (R921). -/
  | fdivs (rd rs1 rs2 : Reg)
  /-- FDIVd (R922). -/
  | fdivd (rd rs1 rs2 : Reg)
  /-- FsMULd (R923). -/
  | fsmuld (rd rs1 rs2 : Reg)
  /-- FiTOs (R924). -/
  | fitos (rd rs2 : Reg)
  /-- FdTOs (R925). -/
  | fdtos (rd rs2 : Reg)
  /-- FiTOd (R926). -/
  | fitod (rd rs2 : Reg)
  /-- FsTOd (R927). -/
  | fstod (rd rs2 : Reg)
  /-- FsTOi (R928). -/
  | fstoi (rd rs2 : Reg)
  /-- FdTOi (R929). -/
  | fdtoi (rd rs2 : Reg)
  /-- FCMPs (R930). -/
  | fcmps (rs1 rs2 : Reg)
  /-- FCMPd (R931). -/
  | fcmpd (rs1 rs2 : Reg)
  /-- FCMPEs (R932). -/
  | fcmpes (rs1 rs2 : Reg)
  /-- FCMPEd (R933). -/
  | fcmped (rs1 rs2 : Reg)
  /-- FPOP1_UNIMPLEMENTED (R901). -/
  | fpop1Unimplemented (rd rs1 : Reg) (opf : BitVec 9) (rs2 : Reg)
  /-- FPOP2_UNIMPLEMENTED (R901). -/
  | fpop2Unimplemented (rd rs1 : Reg) (opf : BitVec 9) (rs2 : Reg)
  deriving DecidableEq, Repr

/-- The mnemonic of an instruction's row of the opcode table. -/
def Instr.mnemonic : Instr → String
  | .add _ _ _ => "ADD"
  | .addcc _ _ _ => "ADDcc"
  | .addx _ _ _ => "ADDX"
  | .addxcc _ _ _ => "ADDXcc"
  | .sub _ _ _ => "SUB"
  | .subcc _ _ _ => "SUBcc"
  | .subx _ _ _ => "SUBX"
  | .subxcc _ _ _ => "SUBXcc"
  | .and _ _ _ => "AND"
  | .andcc _ _ _ => "ANDcc"
  | .andn _ _ _ => "ANDN"
  | .andncc _ _ _ => "ANDNcc"
  | .or _ _ _ => "OR"
  | .orcc _ _ _ => "ORcc"
  | .orn _ _ _ => "ORN"
  | .orncc _ _ _ => "ORNcc"
  | .xor _ _ _ => "XOR"
  | .xorcc _ _ _ => "XORcc"
  | .xnor _ _ _ => "XNOR"
  | .xnorcc _ _ _ => "XNORcc"
  | .sll _ _ _ => "SLL"
  | .srl _ _ _ => "SRL"
  | .sra _ _ _ => "SRA"
  | .sethi _ _ => "SETHI"
  | .nop => "NOP"
  | .taddcc _ _ _ => "TADDcc"
  | .taddcctv _ _ _ => "TADDccTV"
  | .tsubcc _ _ _ => "TSUBcc"
  | .tsubcctv _ _ _ => "TSUBccTV"
  | .mulscc _ _ _ => "MULScc"
  | .umul _ _ _ => "UMUL"
  | .smul _ _ _ => "SMUL"
  | .umulcc _ _ _ => "UMULcc"
  | .smulcc _ _ _ => "SMULcc"
  | .udiv _ _ _ => "UDIV"
  | .sdiv _ _ _ => "SDIV"
  | .udivcc _ _ _ => "UDIVcc"
  | .sdivcc _ _ _ => "SDIVcc"
  | .ba _ _ => "BA"
  | .bn _ _ => "BN"
  | .bne _ _ => "BNE"
  | .be _ _ => "BE"
  | .bg _ _ => "BG"
  | .ble _ _ => "BLE"
  | .bge _ _ => "BGE"
  | .bl _ _ => "BL"
  | .bgu _ _ => "BGU"
  | .bleu _ _ => "BLEU"
  | .bcc _ _ => "BCC"
  | .bcs _ _ => "BCS"
  | .bpos _ _ => "BPOS"
  | .bneg _ _ => "BNEG"
  | .bvc _ _ => "BVC"
  | .bvs _ _ => "BVS"
  | .fba _ _ => "FBA"
  | .fbn _ _ => "FBN"
  | .fbu _ _ => "FBU"
  | .fbg _ _ => "FBG"
  | .fbug _ _ => "FBUG"
  | .fbl _ _ => "FBL"
  | .fbul _ _ => "FBUL"
  | .fblg _ _ => "FBLG"
  | .fbne _ _ => "FBNE"
  | .fbe _ _ => "FBE"
  | .fbue _ _ => "FBUE"
  | .fbge _ _ => "FBGE"
  | .fbuge _ _ => "FBUGE"
  | .fble _ _ => "FBLE"
  | .fbule _ _ => "FBULE"
  | .fbo _ _ => "FBO"
  | .call _ => "CALL"
  | .jmpl _ _ _ => "JMPL"
  | .rett _ _ => "RETT"
  | .unimp _ => "UNIMP"
  | .save _ _ _ => "SAVE"
  | .restore _ _ _ => "RESTORE"
  | .rdy _ => "RDY"
  | .rdpsr _ => "RDPSR"
  | .rdwim _ => "RDWIM"
  | .rdtbr _ => "RDTBR"
  | .wry _ _ => "WRY"
  | .wrpsr _ _ => "WRPSR"
  | .wrwim _ _ => "WRWIM"
  | .wrtbr _ _ => "WRTBR"
  | .stbar => "STBAR"
  | .flush _ _ => "FLUSH"
  | .ldsb _ _ _ => "LDSB"
  | .ldsh _ _ _ => "LDSH"
  | .ldub _ _ _ => "LDUB"
  | .lduh _ _ _ => "LDUH"
  | .ld _ _ _ => "LD"
  | .ldd _ _ _ => "LDD"
  | .stb _ _ _ => "STB"
  | .sth _ _ _ => "STH"
  | .st _ _ _ => "ST"
  | .std _ _ _ => "STD"
  | .ldstub _ _ _ => "LDSTUB"
  | .swap _ _ _ => "SWAP"
  | .ldf _ _ _ => "LDF"
  | .lddf _ _ _ => "LDDF"
  | .ldfsr _ _ => "LDFSR"
  | .stf _ _ _ => "STF"
  | .stdf _ _ _ => "STDF"
  | .stfsr _ _ => "STFSR"
  | .fmovs _ _ => "FMOVs"
  | .fnegs _ _ => "FNEGs"
  | .fabss _ _ => "FABSs"
  | .fsqrts _ _ => "FSQRTs"
  | .fsqrtd _ _ => "FSQRTd"
  | .fadds _ _ _ => "FADDs"
  | .faddd _ _ _ => "FADDd"
  | .fsubs _ _ _ => "FSUBs"
  | .fsubd _ _ _ => "FSUBd"
  | .fmuls _ _ _ => "FMULs"
  | .fmuld _ _ _ => "FMULd"
  | .fdivs _ _ _ => "FDIVs"
  | .fdivd _ _ _ => "FDIVd"
  | .fsmuld _ _ _ => "FsMULd"
  | .fitos _ _ => "FiTOs"
  | .fdtos _ _ => "FdTOs"
  | .fitod _ _ => "FiTOd"
  | .fstod _ _ => "FsTOd"
  | .fstoi _ _ => "FsTOi"
  | .fdtoi _ _ => "FdTOi"
  | .fcmps _ _ => "FCMPs"
  | .fcmpd _ _ => "FCMPd"
  | .fcmpes _ _ => "FCMPEs"
  | .fcmped _ _ => "FCMPEd"
  | .fpop1Unimplemented _ _ _ _ => "FPOP1_UNIMPLEMENTED"
  | .fpop2Unimplemented _ _ _ _ => "FPOP2_UNIMPLEMENTED"

end Sys2Proof
end

