-- ==== Sys2Proof/WellFormed.lean ====
section
/-! DEFINITION. Which terms of `Instr` are the reading of some word: the word 0x01000000 is NOP and not a SETHI, and
the catch-all rows of the FPops stand only for an opf that no other row has (30_encoding R325). -/

namespace Sys2Proof

/-- The opf values of the FPop1 rows (30_encoding R323). -/
def fpop1Opfs : List (BitVec 9) :=
  [0x001, 0x005, 0x009, 0x029, 0x02A, 0x041, 0x042, 0x045, 0x046, 0x049, 0x04A, 0x04D, 0x04E, 0x069,
    0x0C4, 0x0C6, 0x0C8, 0x0C9, 0x0D1, 0x0D2]

/-- The opf values of the FPop2 rows (30_encoding R324). -/
def fpop2Opfs : List (BitVec 9) := [0x051, 0x052, 0x055, 0x056]

/-- The checks on an instruction term; every other bound is in the types of the fields. -/
def Instr.wellFormed : Instr → Bool
  | .add _ _ _ => true
  | .addcc _ _ _ => true
  | .addx _ _ _ => true
  | .addxcc _ _ _ => true
  | .sub _ _ _ => true
  | .subcc _ _ _ => true
  | .subx _ _ _ => true
  | .subxcc _ _ _ => true
  | .and _ _ _ => true
  | .andcc _ _ _ => true
  | .andn _ _ _ => true
  | .andncc _ _ _ => true
  | .or _ _ _ => true
  | .orcc _ _ _ => true
  | .orn _ _ _ => true
  | .orncc _ _ _ => true
  | .xor _ _ _ => true
  | .xorcc _ _ _ => true
  | .xnor _ _ _ => true
  | .xnorcc _ _ _ => true
  | .sll _ _ _ => true
  | .srl _ _ _ => true
  | .sra _ _ _ => true
  | .sethi rd imm22 => !(rd == 0 && imm22 == 0)
  | .nop => true
  | .taddcc _ _ _ => true
  | .taddcctv _ _ _ => true
  | .tsubcc _ _ _ => true
  | .tsubcctv _ _ _ => true
  | .mulscc _ _ _ => true
  | .umul _ _ _ => true
  | .smul _ _ _ => true
  | .umulcc _ _ _ => true
  | .smulcc _ _ _ => true
  | .udiv _ _ _ => true
  | .sdiv _ _ _ => true
  | .udivcc _ _ _ => true
  | .sdivcc _ _ _ => true
  | .ba _ _ => true
  | .bn _ _ => true
  | .bne _ _ => true
  | .be _ _ => true
  | .bg _ _ => true
  | .ble _ _ => true
  | .bge _ _ => true
  | .bl _ _ => true
  | .bgu _ _ => true
  | .bleu _ _ => true
  | .bcc _ _ => true
  | .bcs _ _ => true
  | .bpos _ _ => true
  | .bneg _ _ => true
  | .bvc _ _ => true
  | .bvs _ _ => true
  | .fba _ _ => true
  | .fbn _ _ => true
  | .fbu _ _ => true
  | .fbg _ _ => true
  | .fbug _ _ => true
  | .fbl _ _ => true
  | .fbul _ _ => true
  | .fblg _ _ => true
  | .fbne _ _ => true
  | .fbe _ _ => true
  | .fbue _ _ => true
  | .fbge _ _ => true
  | .fbuge _ _ => true
  | .fble _ _ => true
  | .fbule _ _ => true
  | .fbo _ _ => true
  | .call _ => true
  | .jmpl _ _ _ => true
  | .rett _ _ => true
  | .unimp _ => true
  | .save _ _ _ => true
  | .restore _ _ _ => true
  | .rdy _ => true
  | .rdpsr _ => true
  | .rdwim _ => true
  | .rdtbr _ => true
  | .wry _ _ => true
  | .wrpsr _ _ => true
  | .wrwim _ _ => true
  | .wrtbr _ _ => true
  | .stbar => true
  | .flush _ _ => true
  | .ldsb _ _ _ => true
  | .ldsh _ _ _ => true
  | .ldub _ _ _ => true
  | .lduh _ _ _ => true
  | .ld _ _ _ => true
  | .ldd _ _ _ => true
  | .stb _ _ _ => true
  | .sth _ _ _ => true
  | .st _ _ _ => true
  | .std _ _ _ => true
  | .ldstub _ _ _ => true
  | .swap _ _ _ => true
  | .ldf _ _ _ => true
  | .lddf _ _ _ => true
  | .ldfsr _ _ => true
  | .stf _ _ _ => true
  | .stdf _ _ _ => true
  | .stfsr _ _ => true
  | .fmovs _ _ => true
  | .fnegs _ _ => true
  | .fabss _ _ => true
  | .fsqrts _ _ => true
  | .fsqrtd _ _ => true
  | .fadds _ _ _ => true
  | .faddd _ _ _ => true
  | .fsubs _ _ _ => true
  | .fsubd _ _ _ => true
  | .fmuls _ _ _ => true
  | .fmuld _ _ _ => true
  | .fdivs _ _ _ => true
  | .fdivd _ _ _ => true
  | .fsmuld _ _ _ => true
  | .fitos _ _ => true
  | .fdtos _ _ => true
  | .fitod _ _ => true
  | .fstod _ _ => true
  | .fstoi _ _ => true
  | .fdtoi _ _ => true
  | .fcmps _ _ => true
  | .fcmpd _ _ => true
  | .fcmpes _ _ => true
  | .fcmped _ _ => true
  | .fpop1Unimplemented _ _ opf _ => !fpop1Opfs.contains opf
  | .fpop2Unimplemented _ _ opf _ => !fpop2Opfs.contains opf

end Sys2Proof
end

