-- ==== Sys2Proof/Decode.lean ====
section
/-! DEFINITION. The decoder, total on every word and every byte string, with the names of what it rejects
(30_encoding R300 to R332); the encoder, written from the same tables; and the opcode table as data (R325). -/

namespace Sys2Proof

/-- Why a word is unrecognised (30_encoding R330). -/
inductive Unrecognised
  /-- op = 0 with op2 0b001, 0b011 or 0b101 (R320). -/
  | unassignedOp2
  /-- CBccc (R320). -/
  | coprocessorBranch
  /-- An op3 with no instruction (R321, R322). -/
  | unassignedOp3
  /-- RDASR or WRASR (43_window_and_state R740). -/
  | ancillaryRegister
  /-- CPop1 or CPop2 (R321). -/
  | coprocessorOperate
  /-- Ticc (R321). -/
  | trapOnCondition
  /-- An alternate-space load or store (44_load_store R830). -/
  | alternateSpace
  /-- STDFQ (44_load_store R830). -/
  | floatingPointQueue
  /-- A coprocessor load or store (44_load_store R830). -/
  | coprocessorMemory
  /-- Not four bytes (R300: every instruction is one 32-bit word). -/
  | notOneWord
  deriving DecidableEq, Repr

/-! ### Fields (30_encoding R302) -/

/-- Bits 31:30. -/
def fieldOp (w : Word) : BitVec 2 := w.extractLsb' 30 2
/-- Bits 29:25. -/
def fieldRd (w : Word) : Reg := w.extractLsb' 25 5
/-- Bits 24:22 of format 2. -/
def fieldOp2 (w : Word) : BitVec 3 := w.extractLsb' 22 3
/-- Bits 24:19 of format 3. -/
def fieldOp3 (w : Word) : BitVec 6 := w.extractLsb' 19 6
/-- Bits 18:14. -/
def fieldRs1 (w : Word) : Reg := w.extractLsb' 14 5
/-- Bits 13:5 of an FPop. -/
def fieldOpf (w : Word) : BitVec 9 := w.extractLsb' 5 9
/-- Bits 4:0. -/
def fieldRs2 (w : Word) : Reg := w.extractLsb' 0 5
/-- Bit 29 of a branch. -/
def fieldA (w : Word) : Bool := w.getLsbD 29
/-- Bits 28:25 of a branch. -/
def fieldCond (w : Word) : BitVec 4 := w.extractLsb' 25 4
/-- Bits 21:0: imm22 and disp22 (R312, R313). -/
def fieldImm22 (w : Word) : BitVec 22 := w.extractLsb' 0 22
/-- Bits 29:0 (R314). -/
def fieldDisp30 (w : Word) : BitVec 30 := w.extractLsb' 0 30
/-- The second operand: bit 13 selects register rs2 or simm13; bits 12:5 are ignored with i = 0 (R310, R316). -/
def fieldOperand (w : Word) : Op2 :=
  if w.getLsbD 13 then .imm (w.extractLsb' 0 13) else .reg (fieldRs2 w)

/-! ### The decoder -/

/-- The Bicc cond map (R320). -/
def decodeBicc (a : Bool) (cond : BitVec 4) (disp22 : BitVec 22) : Instr :=
  match cond.toNat with
  | 0 => .bn a disp22
  | 1 => .be a disp22
  | 2 => .ble a disp22
  | 3 => .bl a disp22
  | 4 => .bleu a disp22
  | 5 => .bcs a disp22
  | 6 => .bneg a disp22
  | 7 => .bvs a disp22
  | 8 => .ba a disp22
  | 9 => .bne a disp22
  | 10 => .bg a disp22
  | 11 => .bge a disp22
  | 12 => .bgu a disp22
  | 13 => .bcc a disp22
  | 14 => .bpos a disp22
  | _ => .bvc a disp22

/-- The FBfcc cond map (R320). -/
def decodeFBfcc (a : Bool) (cond : BitVec 4) (disp22 : BitVec 22) : Instr :=
  match cond.toNat with
  | 0 => .fbn a disp22
  | 1 => .fbne a disp22
  | 2 => .fblg a disp22
  | 3 => .fbul a disp22
  | 4 => .fbl a disp22
  | 5 => .fbug a disp22
  | 6 => .fbg a disp22
  | 7 => .fbu a disp22
  | 8 => .fba a disp22
  | 9 => .fbe a disp22
  | 10 => .fbue a disp22
  | 11 => .fbge a disp22
  | 12 => .fbuge a disp22
  | 13 => .fble a disp22
  | 14 => .fbule a disp22
  | _ => .fbo a disp22

/-- Format 2 (R320). The word 0x01000000 is NOP, which also matches the SETHI row (R325). -/
def decodeFormat2 (w : Word) : Except Unrecognised Instr :=
  match (fieldOp2 w).toNat with
  | 0 => .ok (.unimp (fieldImm22 w))
  | 2 => .ok (decodeBicc (fieldA w) (fieldCond w) (fieldImm22 w))
  | 4 => .ok (if fieldRd w = 0 ∧ fieldImm22 w = 0 then .nop else .sethi (fieldRd w) (fieldImm22 w))
  | 6 => .ok (decodeFBfcc (fieldA w) (fieldCond w) (fieldImm22 w))
  | 7 => .error .coprocessorBranch
  | _ => .error .unassignedOp2

/-- FPop1 by opf, with the catch-all row last (R323, R325). -/
def decodeFpop1 (w : Word) : Instr :=
  match (fieldOpf w).toNat with
  | 0x001 => .fmovs (fieldRd w) (fieldRs2 w)
  | 0x005 => .fnegs (fieldRd w) (fieldRs2 w)
  | 0x009 => .fabss (fieldRd w) (fieldRs2 w)
  | 0x029 => .fsqrts (fieldRd w) (fieldRs2 w)
  | 0x02A => .fsqrtd (fieldRd w) (fieldRs2 w)
  | 0x041 => .fadds (fieldRd w) (fieldRs1 w) (fieldRs2 w)
  | 0x042 => .faddd (fieldRd w) (fieldRs1 w) (fieldRs2 w)
  | 0x045 => .fsubs (fieldRd w) (fieldRs1 w) (fieldRs2 w)
  | 0x046 => .fsubd (fieldRd w) (fieldRs1 w) (fieldRs2 w)
  | 0x049 => .fmuls (fieldRd w) (fieldRs1 w) (fieldRs2 w)
  | 0x04A => .fmuld (fieldRd w) (fieldRs1 w) (fieldRs2 w)
  | 0x04D => .fdivs (fieldRd w) (fieldRs1 w) (fieldRs2 w)
  | 0x04E => .fdivd (fieldRd w) (fieldRs1 w) (fieldRs2 w)
  | 0x069 => .fsmuld (fieldRd w) (fieldRs1 w) (fieldRs2 w)
  | 0x0C4 => .fitos (fieldRd w) (fieldRs2 w)
  | 0x0C6 => .fdtos (fieldRd w) (fieldRs2 w)
  | 0x0C8 => .fitod (fieldRd w) (fieldRs2 w)
  | 0x0C9 => .fstod (fieldRd w) (fieldRs2 w)
  | 0x0D1 => .fstoi (fieldRd w) (fieldRs2 w)
  | 0x0D2 => .fdtoi (fieldRd w) (fieldRs2 w)
  | _ => .fpop1Unimplemented (fieldRd w) (fieldRs1 w) (fieldOpf w) (fieldRs2 w)

/-- FPop2 by opf, with the catch-all row last (R324, R325). -/
def decodeFpop2 (w : Word) : Instr :=
  match (fieldOpf w).toNat with
  | 0x051 => .fcmps (fieldRs1 w) (fieldRs2 w)
  | 0x052 => .fcmpd (fieldRs1 w) (fieldRs2 w)
  | 0x055 => .fcmpes (fieldRs1 w) (fieldRs2 w)
  | 0x056 => .fcmped (fieldRs1 w) (fieldRs2 w)
  | _ => .fpop2Unimplemented (fieldRd w) (fieldRs1 w) (fieldOpf w) (fieldRs2 w)

/-- op = 2, by op3 (R321). -/
def decodeArith (w : Word) : Except Unrecognised Instr :=
  match (fieldOp3 w).toNat with
  | 0x00 => .ok (.add (fieldRd w) (fieldRs1 w) (fieldOperand w))
  | 0x01 => .ok (.and (fieldRd w) (fieldRs1 w) (fieldOperand w))
  | 0x02 => .ok (.or (fieldRd w) (fieldRs1 w) (fieldOperand w))
  | 0x03 => .ok (.xor (fieldRd w) (fieldRs1 w) (fieldOperand w))
  | 0x04 => .ok (.sub (fieldRd w) (fieldRs1 w) (fieldOperand w))
  | 0x05 => .ok (.andn (fieldRd w) (fieldRs1 w) (fieldOperand w))
  | 0x06 => .ok (.orn (fieldRd w) (fieldRs1 w) (fieldOperand w))
  | 0x07 => .ok (.xnor (fieldRd w) (fieldRs1 w) (fieldOperand w))
  | 0x08 => .ok (.addx (fieldRd w) (fieldRs1 w) (fieldOperand w))
  | 0x0A => .ok (.umul (fieldRd w) (fieldRs1 w) (fieldOperand w))
  | 0x0B => .ok (.smul (fieldRd w) (fieldRs1 w) (fieldOperand w))
  | 0x0C => .ok (.subx (fieldRd w) (fieldRs1 w) (fieldOperand w))
  | 0x0E => .ok (.udiv (fieldRd w) (fieldRs1 w) (fieldOperand w))
  | 0x0F => .ok (.sdiv (fieldRd w) (fieldRs1 w) (fieldOperand w))
  | 0x10 => .ok (.addcc (fieldRd w) (fieldRs1 w) (fieldOperand w))
  | 0x11 => .ok (.andcc (fieldRd w) (fieldRs1 w) (fieldOperand w))
  | 0x12 => .ok (.orcc (fieldRd w) (fieldRs1 w) (fieldOperand w))
  | 0x13 => .ok (.xorcc (fieldRd w) (fieldRs1 w) (fieldOperand w))
  | 0x14 => .ok (.subcc (fieldRd w) (fieldRs1 w) (fieldOperand w))
  | 0x15 => .ok (.andncc (fieldRd w) (fieldRs1 w) (fieldOperand w))
  | 0x16 => .ok (.orncc (fieldRd w) (fieldRs1 w) (fieldOperand w))
  | 0x17 => .ok (.xnorcc (fieldRd w) (fieldRs1 w) (fieldOperand w))
  | 0x18 => .ok (.addxcc (fieldRd w) (fieldRs1 w) (fieldOperand w))
  | 0x1A => .ok (.umulcc (fieldRd w) (fieldRs1 w) (fieldOperand w))
  | 0x1B => .ok (.smulcc (fieldRd w) (fieldRs1 w) (fieldOperand w))
  | 0x1C => .ok (.subxcc (fieldRd w) (fieldRs1 w) (fieldOperand w))
  | 0x1E => .ok (.udivcc (fieldRd w) (fieldRs1 w) (fieldOperand w))
  | 0x1F => .ok (.sdivcc (fieldRd w) (fieldRs1 w) (fieldOperand w))
  | 0x20 => .ok (.taddcc (fieldRd w) (fieldRs1 w) (fieldOperand w))
  | 0x21 => .ok (.tsubcc (fieldRd w) (fieldRs1 w) (fieldOperand w))
  | 0x22 => .ok (.taddcctv (fieldRd w) (fieldRs1 w) (fieldOperand w))
  | 0x23 => .ok (.tsubcctv (fieldRd w) (fieldRs1 w) (fieldOperand w))
  | 0x24 => .ok (.mulscc (fieldRd w) (fieldRs1 w) (fieldOperand w))
  | 0x25 => .ok (.sll (fieldRd w) (fieldRs1 w) (fieldOperand w))
  | 0x26 => .ok (.srl (fieldRd w) (fieldRs1 w) (fieldOperand w))
  | 0x27 => .ok (.sra (fieldRd w) (fieldRs1 w) (fieldOperand w))
  | 0x28 => if fieldRs1 w = 0 then .ok (.rdy (fieldRd w))
    else if fieldRs1 w = 15 ∧ fieldRd w = 0 then .ok .stbar
    else .error .ancillaryRegister
  | 0x29 => .ok (.rdpsr (fieldRd w))
  | 0x2A => .ok (.rdwim (fieldRd w))
  | 0x2B => .ok (.rdtbr (fieldRd w))
  | 0x30 => if fieldRd w = 0 then .ok (.wry (fieldRs1 w) (fieldOperand w)) else .error .ancillaryRegister
  | 0x31 => .ok (.wrpsr (fieldRs1 w) (fieldOperand w))
  | 0x32 => .ok (.wrwim (fieldRs1 w) (fieldOperand w))
  | 0x33 => .ok (.wrtbr (fieldRs1 w) (fieldOperand w))
  | 0x34 => .ok (decodeFpop1 w)
  | 0x35 => .ok (decodeFpop2 w)
  | 0x36 => .error .coprocessorOperate
  | 0x37 => .error .coprocessorOperate
  | 0x38 => .ok (.jmpl (fieldRd w) (fieldRs1 w) (fieldOperand w))
  | 0x39 => .ok (.rett (fieldRs1 w) (fieldOperand w))
  | 0x3A => .error .trapOnCondition
  | 0x3B => .ok (.flush (fieldRs1 w) (fieldOperand w))
  | 0x3C => .ok (.save (fieldRd w) (fieldRs1 w) (fieldOperand w))
  | 0x3D => .ok (.restore (fieldRd w) (fieldRs1 w) (fieldOperand w))
  | _ => .error .unassignedOp3

/-- op = 3, by op3 (R322). -/
def decodeMem (w : Word) : Except Unrecognised Instr :=
  match (fieldOp3 w).toNat with
  | 0x00 => .ok (.ld (fieldRd w) (fieldRs1 w) (fieldOperand w))
  | 0x01 => .ok (.ldub (fieldRd w) (fieldRs1 w) (fieldOperand w))
  | 0x02 => .ok (.lduh (fieldRd w) (fieldRs1 w) (fieldOperand w))
  | 0x03 => .ok (.ldd (fieldRd w) (fieldRs1 w) (fieldOperand w))
  | 0x04 => .ok (.st (fieldRd w) (fieldRs1 w) (fieldOperand w))
  | 0x05 => .ok (.stb (fieldRd w) (fieldRs1 w) (fieldOperand w))
  | 0x06 => .ok (.sth (fieldRd w) (fieldRs1 w) (fieldOperand w))
  | 0x07 => .ok (.std (fieldRd w) (fieldRs1 w) (fieldOperand w))
  | 0x09 => .ok (.ldsb (fieldRd w) (fieldRs1 w) (fieldOperand w))
  | 0x0A => .ok (.ldsh (fieldRd w) (fieldRs1 w) (fieldOperand w))
  | 0x0D => .ok (.ldstub (fieldRd w) (fieldRs1 w) (fieldOperand w))
  | 0x0F => .ok (.swap (fieldRd w) (fieldRs1 w) (fieldOperand w))
  | 0x10 => .error .alternateSpace
  | 0x11 => .error .alternateSpace
  | 0x12 => .error .alternateSpace
  | 0x13 => .error .alternateSpace
  | 0x14 => .error .alternateSpace
  | 0x15 => .error .alternateSpace
  | 0x16 => .error .alternateSpace
  | 0x17 => .error .alternateSpace
  | 0x19 => .error .alternateSpace
  | 0x1A => .error .alternateSpace
  | 0x1D => .error .alternateSpace
  | 0x1F => .error .alternateSpace
  | 0x20 => .ok (.ldf (fieldRd w) (fieldRs1 w) (fieldOperand w))
  | 0x21 => .ok (.ldfsr (fieldRs1 w) (fieldOperand w))
  | 0x23 => .ok (.lddf (fieldRd w) (fieldRs1 w) (fieldOperand w))
  | 0x24 => .ok (.stf (fieldRd w) (fieldRs1 w) (fieldOperand w))
  | 0x25 => .ok (.stfsr (fieldRs1 w) (fieldOperand w))
  | 0x26 => .error .floatingPointQueue
  | 0x27 => .ok (.stdf (fieldRd w) (fieldRs1 w) (fieldOperand w))
  | 0x30 => .error .coprocessorMemory
  | 0x31 => .error .coprocessorMemory
  | 0x33 => .error .coprocessorMemory
  | 0x34 => .error .coprocessorMemory
  | 0x35 => .error .coprocessorMemory
  | 0x36 => .error .coprocessorMemory
  | 0x37 => .error .coprocessorMemory
  | _ => .error .unassignedOp3

/-- Decode is a pure function of the fetched word (40_execution_engine R411). UNIMP has a row, so that the decoder
names it; the step reports it as unrecognised (30_encoding R331). -/
def decode (w : Word) : Except Unrecognised Instr :=
  match (fieldOp w).toNat with
  | 0 => decodeFormat2 w
  | 1 => .ok (.call (fieldDisp30 w))
  | 2 => decodeArith w
  | _ => decodeMem w

/-- The word of four bytes, the first at the lowest address: big-endian (R300, 20_memory R207). -/
def wordOfBytes (b0 b1 b2 b3 : Byte) : Word := b0 ++ b1 ++ b2 ++ b3

/-- The four bytes of a word, the most significant first (20_memory R207). -/
def bytesOfWord (w : Word) : List Byte :=
  [w.extractLsb' 24 8, w.extractLsb' 16 8, w.extractLsb' 8 8, w.extractLsb' 0 8]

/-- The decoder on the bytes at a fetch address. -/
def decodeBytes : List Byte → Except Unrecognised Instr
  | [b0, b1, b2, b3] => decode (wordOfBytes b0 b1 b2 b3)
  | _ => .error .notOneWord

/-- The instruction the decoder reads from the bits `w` of a row of `nbits` bits; bits above `nbits` are 0. -/
def decodeTableWord (nbits w : Nat) : Option Instr :=
  (decodeBytes (bytesOfWord (BitVec.ofNat 32 (w % 2 ^ nbits)))).toOption

/-! ### The encoder -/

/-- Format 2 of SETHI, NOP and UNIMP (R302). -/
def encodeImm22 (rd : Reg) (op2 : BitVec 3) (imm22 : BitVec 22) : Word := 0#2 ++ rd ++ op2 ++ imm22

/-- Format 2 of the branches (R302). -/
def encodeBranch (op2 : BitVec 3) (cond : BitVec 4) (a : Bool) (disp22 : BitVec 22) : Word :=
  0#2 ++ BitVec.ofBool a ++ cond ++ op2 ++ disp22

/-- Format 3 (R302), with bits 12:5 zero when i = 0. -/
def encodeFormat3 (op : BitVec 2) (op3 : BitVec 6) (rd rs1 : Reg) : Op2 → Word
  | .reg rs2 => op ++ rd ++ op3 ++ rs1 ++ 0#1 ++ 0#8 ++ rs2
  | .imm simm13 => op ++ rd ++ op3 ++ rs1 ++ 1#1 ++ simm13

/-- Format 3 of the FPops (R302). -/
def encodeFpop (op3 : BitVec 6) (rd rs1 : Reg) (opf : BitVec 9) (rs2 : Reg) : Word :=
  2#2 ++ rd ++ op3 ++ rs1 ++ opf ++ rs2

/-- The word of an instruction, with every ignored bit (R316) zero. -/
def encode : Instr → Word
  | .add rd rs1 op2 => encodeFormat3 2 0x00 rd rs1 op2
  | .addcc rd rs1 op2 => encodeFormat3 2 0x10 rd rs1 op2
  | .addx rd rs1 op2 => encodeFormat3 2 0x08 rd rs1 op2
  | .addxcc rd rs1 op2 => encodeFormat3 2 0x18 rd rs1 op2
  | .sub rd rs1 op2 => encodeFormat3 2 0x04 rd rs1 op2
  | .subcc rd rs1 op2 => encodeFormat3 2 0x14 rd rs1 op2
  | .subx rd rs1 op2 => encodeFormat3 2 0x0C rd rs1 op2
  | .subxcc rd rs1 op2 => encodeFormat3 2 0x1C rd rs1 op2
  | .and rd rs1 op2 => encodeFormat3 2 0x01 rd rs1 op2
  | .andcc rd rs1 op2 => encodeFormat3 2 0x11 rd rs1 op2
  | .andn rd rs1 op2 => encodeFormat3 2 0x05 rd rs1 op2
  | .andncc rd rs1 op2 => encodeFormat3 2 0x15 rd rs1 op2
  | .or rd rs1 op2 => encodeFormat3 2 0x02 rd rs1 op2
  | .orcc rd rs1 op2 => encodeFormat3 2 0x12 rd rs1 op2
  | .orn rd rs1 op2 => encodeFormat3 2 0x06 rd rs1 op2
  | .orncc rd rs1 op2 => encodeFormat3 2 0x16 rd rs1 op2
  | .xor rd rs1 op2 => encodeFormat3 2 0x03 rd rs1 op2
  | .xorcc rd rs1 op2 => encodeFormat3 2 0x13 rd rs1 op2
  | .xnor rd rs1 op2 => encodeFormat3 2 0x07 rd rs1 op2
  | .xnorcc rd rs1 op2 => encodeFormat3 2 0x17 rd rs1 op2
  | .sll rd rs1 op2 => encodeFormat3 2 0x25 rd rs1 op2
  | .srl rd rs1 op2 => encodeFormat3 2 0x26 rd rs1 op2
  | .sra rd rs1 op2 => encodeFormat3 2 0x27 rd rs1 op2
  | .sethi rd imm22 => encodeImm22 rd 4 imm22
  | .nop => encodeImm22 0 4 0
  | .taddcc rd rs1 op2 => encodeFormat3 2 0x20 rd rs1 op2
  | .taddcctv rd rs1 op2 => encodeFormat3 2 0x22 rd rs1 op2
  | .tsubcc rd rs1 op2 => encodeFormat3 2 0x21 rd rs1 op2
  | .tsubcctv rd rs1 op2 => encodeFormat3 2 0x23 rd rs1 op2
  | .mulscc rd rs1 op2 => encodeFormat3 2 0x24 rd rs1 op2
  | .umul rd rs1 op2 => encodeFormat3 2 0x0A rd rs1 op2
  | .smul rd rs1 op2 => encodeFormat3 2 0x0B rd rs1 op2
  | .umulcc rd rs1 op2 => encodeFormat3 2 0x1A rd rs1 op2
  | .smulcc rd rs1 op2 => encodeFormat3 2 0x1B rd rs1 op2
  | .udiv rd rs1 op2 => encodeFormat3 2 0x0E rd rs1 op2
  | .sdiv rd rs1 op2 => encodeFormat3 2 0x0F rd rs1 op2
  | .udivcc rd rs1 op2 => encodeFormat3 2 0x1E rd rs1 op2
  | .sdivcc rd rs1 op2 => encodeFormat3 2 0x1F rd rs1 op2
  | .ba a disp22 => encodeBranch 2 8 a disp22
  | .bn a disp22 => encodeBranch 2 0 a disp22
  | .bne a disp22 => encodeBranch 2 9 a disp22
  | .be a disp22 => encodeBranch 2 1 a disp22
  | .bg a disp22 => encodeBranch 2 10 a disp22
  | .ble a disp22 => encodeBranch 2 2 a disp22
  | .bge a disp22 => encodeBranch 2 11 a disp22
  | .bl a disp22 => encodeBranch 2 3 a disp22
  | .bgu a disp22 => encodeBranch 2 12 a disp22
  | .bleu a disp22 => encodeBranch 2 4 a disp22
  | .bcc a disp22 => encodeBranch 2 13 a disp22
  | .bcs a disp22 => encodeBranch 2 5 a disp22
  | .bpos a disp22 => encodeBranch 2 14 a disp22
  | .bneg a disp22 => encodeBranch 2 6 a disp22
  | .bvc a disp22 => encodeBranch 2 15 a disp22
  | .bvs a disp22 => encodeBranch 2 7 a disp22
  | .fba a disp22 => encodeBranch 6 8 a disp22
  | .fbn a disp22 => encodeBranch 6 0 a disp22
  | .fbu a disp22 => encodeBranch 6 7 a disp22
  | .fbg a disp22 => encodeBranch 6 6 a disp22
  | .fbug a disp22 => encodeBranch 6 5 a disp22
  | .fbl a disp22 => encodeBranch 6 4 a disp22
  | .fbul a disp22 => encodeBranch 6 3 a disp22
  | .fblg a disp22 => encodeBranch 6 2 a disp22
  | .fbne a disp22 => encodeBranch 6 1 a disp22
  | .fbe a disp22 => encodeBranch 6 9 a disp22
  | .fbue a disp22 => encodeBranch 6 10 a disp22
  | .fbge a disp22 => encodeBranch 6 11 a disp22
  | .fbuge a disp22 => encodeBranch 6 12 a disp22
  | .fble a disp22 => encodeBranch 6 13 a disp22
  | .fbule a disp22 => encodeBranch 6 14 a disp22
  | .fbo a disp22 => encodeBranch 6 15 a disp22
  | .call disp30 => 1#2 ++ disp30
  | .jmpl rd rs1 op2 => encodeFormat3 2 0x38 rd rs1 op2
  | .rett rs1 op2 => encodeFormat3 2 0x39 0 rs1 op2
  | .unimp imm22 => encodeImm22 0 0 imm22
  | .save rd rs1 op2 => encodeFormat3 2 0x3C rd rs1 op2
  | .restore rd rs1 op2 => encodeFormat3 2 0x3D rd rs1 op2
  | .rdy rd => encodeFormat3 2 0x28 rd 0 (.reg 0)
  | .rdpsr rd => encodeFormat3 2 0x29 rd 0 (.reg 0)
  | .rdwim rd => encodeFormat3 2 0x2A rd 0 (.reg 0)
  | .rdtbr rd => encodeFormat3 2 0x2B rd 0 (.reg 0)
  | .wry rs1 op2 => encodeFormat3 2 0x30 0 rs1 op2
  | .wrpsr rs1 op2 => encodeFormat3 2 0x31 0 rs1 op2
  | .wrwim rs1 op2 => encodeFormat3 2 0x32 0 rs1 op2
  | .wrtbr rs1 op2 => encodeFormat3 2 0x33 0 rs1 op2
  | .stbar => encodeFormat3 2 0x28 0 15 (.reg 0)
  | .flush rs1 op2 => encodeFormat3 2 0x3B 0 rs1 op2
  | .ldsb rd rs1 op2 => encodeFormat3 3 0x09 rd rs1 op2
  | .ldsh rd rs1 op2 => encodeFormat3 3 0x0A rd rs1 op2
  | .ldub rd rs1 op2 => encodeFormat3 3 0x01 rd rs1 op2
  | .lduh rd rs1 op2 => encodeFormat3 3 0x02 rd rs1 op2
  | .ld rd rs1 op2 => encodeFormat3 3 0x00 rd rs1 op2
  | .ldd rd rs1 op2 => encodeFormat3 3 0x03 rd rs1 op2
  | .stb rd rs1 op2 => encodeFormat3 3 0x05 rd rs1 op2
  | .sth rd rs1 op2 => encodeFormat3 3 0x06 rd rs1 op2
  | .st rd rs1 op2 => encodeFormat3 3 0x04 rd rs1 op2
  | .std rd rs1 op2 => encodeFormat3 3 0x07 rd rs1 op2
  | .ldstub rd rs1 op2 => encodeFormat3 3 0x0D rd rs1 op2
  | .swap rd rs1 op2 => encodeFormat3 3 0x0F rd rs1 op2
  | .ldf rd rs1 op2 => encodeFormat3 3 0x20 rd rs1 op2
  | .lddf rd rs1 op2 => encodeFormat3 3 0x23 rd rs1 op2
  | .ldfsr rs1 op2 => encodeFormat3 3 0x21 0 rs1 op2
  | .stf rd rs1 op2 => encodeFormat3 3 0x24 rd rs1 op2
  | .stdf rd rs1 op2 => encodeFormat3 3 0x27 rd rs1 op2
  | .stfsr rs1 op2 => encodeFormat3 3 0x25 0 rs1 op2
  | .fmovs rd rs2 => encodeFpop 0x34 rd 0 0x001 rs2
  | .fnegs rd rs2 => encodeFpop 0x34 rd 0 0x005 rs2
  | .fabss rd rs2 => encodeFpop 0x34 rd 0 0x009 rs2
  | .fsqrts rd rs2 => encodeFpop 0x34 rd 0 0x029 rs2
  | .fsqrtd rd rs2 => encodeFpop 0x34 rd 0 0x02A rs2
  | .fadds rd rs1 rs2 => encodeFpop 0x34 rd rs1 0x041 rs2
  | .faddd rd rs1 rs2 => encodeFpop 0x34 rd rs1 0x042 rs2
  | .fsubs rd rs1 rs2 => encodeFpop 0x34 rd rs1 0x045 rs2
  | .fsubd rd rs1 rs2 => encodeFpop 0x34 rd rs1 0x046 rs2
  | .fmuls rd rs1 rs2 => encodeFpop 0x34 rd rs1 0x049 rs2
  | .fmuld rd rs1 rs2 => encodeFpop 0x34 rd rs1 0x04A rs2
  | .fdivs rd rs1 rs2 => encodeFpop 0x34 rd rs1 0x04D rs2
  | .fdivd rd rs1 rs2 => encodeFpop 0x34 rd rs1 0x04E rs2
  | .fsmuld rd rs1 rs2 => encodeFpop 0x34 rd rs1 0x069 rs2
  | .fitos rd rs2 => encodeFpop 0x34 rd 0 0x0C4 rs2
  | .fdtos rd rs2 => encodeFpop 0x34 rd 0 0x0C6 rs2
  | .fitod rd rs2 => encodeFpop 0x34 rd 0 0x0C8 rs2
  | .fstod rd rs2 => encodeFpop 0x34 rd 0 0x0C9 rs2
  | .fstoi rd rs2 => encodeFpop 0x34 rd 0 0x0D1 rs2
  | .fdtoi rd rs2 => encodeFpop 0x34 rd 0 0x0D2 rs2
  | .fcmps rs1 rs2 => encodeFpop 0x35 0 rs1 0x051 rs2
  | .fcmpd rs1 rs2 => encodeFpop 0x35 0 rs1 0x052 rs2
  | .fcmpes rs1 rs2 => encodeFpop 0x35 0 rs1 0x055 rs2
  | .fcmped rs1 rs2 => encodeFpop 0x35 0 rs1 0x056 rs2
  | .fpop1Unimplemented rd rs1 opf rs2 => encodeFpop 0x34 rd rs1 opf rs2
  | .fpop2Unimplemented rd rs1 opf rs2 => encodeFpop 0x35 rd rs1 opf rs2

/-! ### The opcode table -/

/-- A row of opcode_table.json: a word w matches it when `w &&& mask = pattern` (R325). -/
structure OpcodeRow where
  mnemonic : String
  pattern : Word
  mask : Word
  deriving DecidableEq, Repr

/-- The first row of a table that a word matches. -/
def matchRow (rows : List OpcodeRow) (w : Word) : Option OpcodeRow :=
  rows.find? fun r => w &&& r.mask == r.pattern

/-- The integer rows of 41_integer_arithmetic, NOP before SETHI (R325). -/
def opcodeRowsArith : List OpcodeRow := [
  ⟨"ADD", 0x80000000, 0xC1F80000⟩,
  ⟨"ADDcc", 0x80800000, 0xC1F80000⟩,
  ⟨"ADDX", 0x80400000, 0xC1F80000⟩,
  ⟨"ADDXcc", 0x80C00000, 0xC1F80000⟩,
  ⟨"SUB", 0x80200000, 0xC1F80000⟩,
  ⟨"SUBcc", 0x80A00000, 0xC1F80000⟩,
  ⟨"SUBX", 0x80600000, 0xC1F80000⟩,
  ⟨"SUBXcc", 0x80E00000, 0xC1F80000⟩,
  ⟨"AND", 0x80080000, 0xC1F80000⟩,
  ⟨"ANDcc", 0x80880000, 0xC1F80000⟩,
  ⟨"ANDN", 0x80280000, 0xC1F80000⟩,
  ⟨"ANDNcc", 0x80A80000, 0xC1F80000⟩,
  ⟨"OR", 0x80100000, 0xC1F80000⟩,
  ⟨"ORcc", 0x80900000, 0xC1F80000⟩,
  ⟨"ORN", 0x80300000, 0xC1F80000⟩,
  ⟨"ORNcc", 0x80B00000, 0xC1F80000⟩,
  ⟨"XOR", 0x80180000, 0xC1F80000⟩,
  ⟨"XORcc", 0x80980000, 0xC1F80000⟩,
  ⟨"XNOR", 0x80380000, 0xC1F80000⟩,
  ⟨"XNORcc", 0x80B80000, 0xC1F80000⟩,
  ⟨"SLL", 0x81280000, 0xC1F80000⟩,
  ⟨"SRL", 0x81300000, 0xC1F80000⟩,
  ⟨"SRA", 0x81380000, 0xC1F80000⟩,
  ⟨"NOP", 0x01000000, 0xFFFFFFFF⟩,
  ⟨"SETHI", 0x01000000, 0xC1C00000⟩,
  ⟨"TADDcc", 0x81000000, 0xC1F80000⟩,
  ⟨"TADDccTV", 0x81100000, 0xC1F80000⟩,
  ⟨"TSUBcc", 0x81080000, 0xC1F80000⟩,
  ⟨"TSUBccTV", 0x81180000, 0xC1F80000⟩,
  ⟨"MULScc", 0x81200000, 0xC1F80000⟩,
  ⟨"UMUL", 0x80500000, 0xC1F80000⟩,
  ⟨"SMUL", 0x80580000, 0xC1F80000⟩,
  ⟨"UMULcc", 0x80D00000, 0xC1F80000⟩,
  ⟨"SMULcc", 0x80D80000, 0xC1F80000⟩,
  ⟨"UDIV", 0x80700000, 0xC1F80000⟩,
  ⟨"SDIV", 0x80780000, 0xC1F80000⟩,
  ⟨"UDIVcc", 0x80F00000, 0xC1F80000⟩,
  ⟨"SDIVcc", 0x80F80000, 0xC1F80000⟩]

/-- The rows of 42_control_transfer. -/
def opcodeRowsControl : List OpcodeRow := [
  ⟨"BA", 0x10800000, 0xDFC00000⟩,
  ⟨"BN", 0x00800000, 0xDFC00000⟩,
  ⟨"BNE", 0x12800000, 0xDFC00000⟩,
  ⟨"BE", 0x02800000, 0xDFC00000⟩,
  ⟨"BG", 0x14800000, 0xDFC00000⟩,
  ⟨"BLE", 0x04800000, 0xDFC00000⟩,
  ⟨"BGE", 0x16800000, 0xDFC00000⟩,
  ⟨"BL", 0x06800000, 0xDFC00000⟩,
  ⟨"BGU", 0x18800000, 0xDFC00000⟩,
  ⟨"BLEU", 0x08800000, 0xDFC00000⟩,
  ⟨"BCC", 0x1A800000, 0xDFC00000⟩,
  ⟨"BCS", 0x0A800000, 0xDFC00000⟩,
  ⟨"BPOS", 0x1C800000, 0xDFC00000⟩,
  ⟨"BNEG", 0x0C800000, 0xDFC00000⟩,
  ⟨"BVC", 0x1E800000, 0xDFC00000⟩,
  ⟨"BVS", 0x0E800000, 0xDFC00000⟩,
  ⟨"FBA", 0x11800000, 0xDFC00000⟩,
  ⟨"FBN", 0x01800000, 0xDFC00000⟩,
  ⟨"FBU", 0x0F800000, 0xDFC00000⟩,
  ⟨"FBG", 0x0D800000, 0xDFC00000⟩,
  ⟨"FBUG", 0x0B800000, 0xDFC00000⟩,
  ⟨"FBL", 0x09800000, 0xDFC00000⟩,
  ⟨"FBUL", 0x07800000, 0xDFC00000⟩,
  ⟨"FBLG", 0x05800000, 0xDFC00000⟩,
  ⟨"FBNE", 0x03800000, 0xDFC00000⟩,
  ⟨"FBE", 0x13800000, 0xDFC00000⟩,
  ⟨"FBUE", 0x15800000, 0xDFC00000⟩,
  ⟨"FBGE", 0x17800000, 0xDFC00000⟩,
  ⟨"FBUGE", 0x19800000, 0xDFC00000⟩,
  ⟨"FBLE", 0x1B800000, 0xDFC00000⟩,
  ⟨"FBULE", 0x1D800000, 0xDFC00000⟩,
  ⟨"FBO", 0x1F800000, 0xDFC00000⟩,
  ⟨"CALL", 0x40000000, 0xC0000000⟩,
  ⟨"JMPL", 0x81C00000, 0xC1F80000⟩,
  ⟨"RETT", 0x81C80000, 0xC1F80000⟩,
  ⟨"UNIMP", 0x00000000, 0xC1C00000⟩]

/-- The rows of 43_window_and_state. -/
def opcodeRowsState : List OpcodeRow := [
  ⟨"SAVE", 0x81E00000, 0xC1F80000⟩,
  ⟨"RESTORE", 0x81E80000, 0xC1F80000⟩,
  ⟨"RDY", 0x81400000, 0xC1FFC000⟩,
  ⟨"RDPSR", 0x81480000, 0xC1F80000⟩,
  ⟨"RDWIM", 0x81500000, 0xC1F80000⟩,
  ⟨"RDTBR", 0x81580000, 0xC1F80000⟩,
  ⟨"WRY", 0x81800000, 0xFFF80000⟩,
  ⟨"WRPSR", 0x81880000, 0xC1F80000⟩,
  ⟨"WRWIM", 0x81900000, 0xC1F80000⟩,
  ⟨"WRTBR", 0x81980000, 0xC1F80000⟩,
  ⟨"STBAR", 0x8143C000, 0xFFFFC000⟩,
  ⟨"FLUSH", 0x81D80000, 0xC1F80000⟩]

/-- The rows of 44_load_store. -/
def opcodeRowsMemory : List OpcodeRow := [
  ⟨"LDSB", 0xC0480000, 0xC1F80000⟩,
  ⟨"LDSH", 0xC0500000, 0xC1F80000⟩,
  ⟨"LDUB", 0xC0080000, 0xC1F80000⟩,
  ⟨"LDUH", 0xC0100000, 0xC1F80000⟩,
  ⟨"LD", 0xC0000000, 0xC1F80000⟩,
  ⟨"LDD", 0xC0180000, 0xC1F80000⟩,
  ⟨"STB", 0xC0280000, 0xC1F80000⟩,
  ⟨"STH", 0xC0300000, 0xC1F80000⟩,
  ⟨"ST", 0xC0200000, 0xC1F80000⟩,
  ⟨"STD", 0xC0380000, 0xC1F80000⟩,
  ⟨"LDSTUB", 0xC0680000, 0xC1F80000⟩,
  ⟨"SWAP", 0xC0780000, 0xC1F80000⟩,
  ⟨"LDF", 0xC1000000, 0xC1F80000⟩,
  ⟨"LDDF", 0xC1180000, 0xC1F80000⟩,
  ⟨"LDFSR", 0xC1080000, 0xC1F80000⟩,
  ⟨"STF", 0xC1200000, 0xC1F80000⟩,
  ⟨"STDF", 0xC1380000, 0xC1F80000⟩,
  ⟨"STFSR", 0xC1280000, 0xC1F80000⟩]

/-- The rows of 45_floating_point, the catch-all rows last (R325). -/
def opcodeRowsFloat : List OpcodeRow := [
  ⟨"FMOVs", 0x81A00020, 0xC1F83FE0⟩,
  ⟨"FNEGs", 0x81A000A0, 0xC1F83FE0⟩,
  ⟨"FABSs", 0x81A00120, 0xC1F83FE0⟩,
  ⟨"FSQRTs", 0x81A00520, 0xC1F83FE0⟩,
  ⟨"FSQRTd", 0x81A00540, 0xC1F83FE0⟩,
  ⟨"FADDs", 0x81A00820, 0xC1F83FE0⟩,
  ⟨"FADDd", 0x81A00840, 0xC1F83FE0⟩,
  ⟨"FSUBs", 0x81A008A0, 0xC1F83FE0⟩,
  ⟨"FSUBd", 0x81A008C0, 0xC1F83FE0⟩,
  ⟨"FMULs", 0x81A00920, 0xC1F83FE0⟩,
  ⟨"FMULd", 0x81A00940, 0xC1F83FE0⟩,
  ⟨"FDIVs", 0x81A009A0, 0xC1F83FE0⟩,
  ⟨"FDIVd", 0x81A009C0, 0xC1F83FE0⟩,
  ⟨"FsMULd", 0x81A00D20, 0xC1F83FE0⟩,
  ⟨"FiTOs", 0x81A01880, 0xC1F83FE0⟩,
  ⟨"FdTOs", 0x81A018C0, 0xC1F83FE0⟩,
  ⟨"FiTOd", 0x81A01900, 0xC1F83FE0⟩,
  ⟨"FsTOd", 0x81A01920, 0xC1F83FE0⟩,
  ⟨"FsTOi", 0x81A01A20, 0xC1F83FE0⟩,
  ⟨"FdTOi", 0x81A01A40, 0xC1F83FE0⟩,
  ⟨"FCMPs", 0x81A80A20, 0xC1F83FE0⟩,
  ⟨"FCMPd", 0x81A80A40, 0xC1F83FE0⟩,
  ⟨"FCMPEs", 0x81A80AA0, 0xC1F83FE0⟩,
  ⟨"FCMPEd", 0x81A80AC0, 0xC1F83FE0⟩,
  ⟨"FPOP1_UNIMPLEMENTED", 0x81A00000, 0xC1F80000⟩,
  ⟨"FPOP2_UNIMPLEMENTED", 0x81A80000, 0xC1F80000⟩]

/-- opcode_table.json, in an order in which the first match is the row that R325 gives precedence. -/
def opcodeTable : List OpcodeRow :=
  opcodeRowsArith ++ opcodeRowsControl ++ opcodeRowsState ++ opcodeRowsMemory ++ opcodeRowsFloat

end Sys2Proof
end

