-- ==== Sys2Proof/Machine/Fields.lean ====
section
/-! DEFINITION. The packed status registers: the fields of the PSR (10_state R110), the FSR (R120) and the TBR (R130),
read and written without touching a neighbour, and the structured views castToPSR and castToFSR (R113, R123). -/

namespace Sys2Proof.Machine

/-- The integer condition codes (10_state R114). -/
structure Icc where
  n : Bool
  z : Bool
  v : Bool
  c : Bool
  deriving DecidableEq, Repr

/-! ### PSR (10_state R110) -/

def Psr.impl (p : Word) : BitVec 4 := p.extractLsb' 28 4
def Psr.ver (p : Word) : BitVec 4 := p.extractLsb' 24 4
def Psr.icc (p : Word) : Icc := ⟨p.getLsbD 23, p.getLsbD 22, p.getLsbD 21, p.getLsbD 20⟩
def Psr.reserved (p : Word) : BitVec 6 := p.extractLsb' 14 6
def Psr.ec (p : Word) : Bool := p.getLsbD 13
def Psr.ef (p : Word) : Bool := p.getLsbD 12
def Psr.pil (p : Word) : BitVec 4 := p.extractLsb' 8 4
def Psr.s (p : Word) : Bool := p.getLsbD 7
def Psr.ps (p : Word) : Bool := p.getLsbD 6
def Psr.et (p : Word) : Bool := p.getLsbD 5
def Psr.cwp (p : Word) : BitVec 5 := p.extractLsb' 0 5

/-- Writing icc: bits 23 to 20 and no other (41_integer_arithmetic R504). -/
def Psr.setIcc (p : Word) (i : Icc) : Word :=
  p.extractLsb' 24 8 ++ BitVec.ofBool i.n ++ BitVec.ofBool i.z ++ BitVec.ofBool i.v ++ BitVec.ofBool i.c ++
    p.extractLsb' 0 20

/-- Writing cwp: bits 4 to 0 and no other. -/
def Psr.setCwp (p : Word) (c : BitVec 5) : Word := p.extractLsb' 5 27 ++ c

/-- The PSR that trap entry writes: et <- 0, ps <- s, s <- 1 and the new window (60_exceptions R1011). -/
def Psr.enterTrap (p : Word) (c : BitVec 5) : Word :=
  p.extractLsb' 8 24 ++ 1#1 ++ BitVec.ofBool (Psr.s p) ++ 0#1 ++ c

/-- The PSR that RETT writes: s <- ps, et <- 1 and the new window; ps keeps its value (42_control_transfer R642). -/
def Psr.returnFromTrap (p : Word) (c : BitVec 5) : Word :=
  p.extractLsb' 8 24 ++ BitVec.ofBool (Psr.ps p) ++ BitVec.ofBool (Psr.ps p) ++ 1#1 ++ c

/-- The PSR that WRPSR writes: every field but impl and ver (43_window_and_state R721). -/
def Psr.write (p v : Word) : Word := p.extractLsb' 24 8 ++ v.extractLsb' 0 24

/-- The structured view of a PSR (10_state R110). -/
structure PsrFields where
  impl : BitVec 4
  ver : BitVec 4
  icc : Icc
  reserved : BitVec 6
  ec : Bool
  ef : Bool
  pil : BitVec 4
  s : Bool
  ps : Bool
  et : Bool
  cwp : BitVec 5
  deriving DecidableEq, Repr

/-- `castToPSR(raw)` (10_state R113). -/
def castToPSR (raw : Word) : PsrFields where
  impl := Psr.impl raw
  ver := Psr.ver raw
  icc := Psr.icc raw
  reserved := Psr.reserved raw
  ec := Psr.ec raw
  ef := Psr.ef raw
  pil := Psr.pil raw
  s := Psr.s raw
  ps := Psr.ps raw
  et := Psr.et raw
  cwp := Psr.cwp raw

/-- The fields packed back, most significant first (10_state R113). -/
def packPSR (p : PsrFields) : Word :=
  p.impl ++ p.ver ++ BitVec.ofBool p.icc.n ++ BitVec.ofBool p.icc.z ++ BitVec.ofBool p.icc.v ++
    BitVec.ofBool p.icc.c ++ p.reserved ++ BitVec.ofBool p.ec ++ BitVec.ofBool p.ef ++ p.pil ++
    BitVec.ofBool p.s ++ BitVec.ofBool p.ps ++ BitVec.ofBool p.et ++ p.cwp

/-! ### FSR (10_state R120) -/

def Fsr.rd (p : Word) : BitVec 2 := p.extractLsb' 30 2
def Fsr.uhigh (p : Word) : BitVec 2 := p.extractLsb' 28 2
def Fsr.tem (p : Word) : BitVec 5 := p.extractLsb' 23 5
def Fsr.ns (p : Word) : Bool := p.getLsbD 22
def Fsr.res (p : Word) : Bool := p.getLsbD 21
def Fsr.ver (p : Word) : BitVec 3 := p.extractLsb' 18 3
def Fsr.ftt (p : Word) : BitVec 3 := p.extractLsb' 15 3
def Fsr.qne (p : Word) : Bool := p.getLsbD 14
def Fsr.fcc (p : Word) : BitVec 2 := p.extractLsb' 12 2
def Fsr.ulow (p : Word) : BitVec 2 := p.extractLsb' 10 2
def Fsr.aexc (p : Word) : BitVec 5 := p.extractLsb' 5 5
def Fsr.cexc (p : Word) : BitVec 5 := p.extractLsb' 0 5

/-- Writing ftt: bits 17 to 15 and no other. -/
def Fsr.setFtt (p : Word) (t : BitVec 3) : Word := p.extractLsb' 18 14 ++ t ++ p.extractLsb' 0 15

/-- Writing fcc: bits 13 and 12 and no other. -/
def Fsr.setFcc (p : Word) (c : BitVec 2) : Word := p.extractLsb' 14 18 ++ c ++ p.extractLsb' 0 12

/-- Writing cexc: bits 4 to 0 and no other. -/
def Fsr.setCexc (p : Word) (e : BitVec 5) : Word := p.extractLsb' 5 27 ++ e

/-- Writing aexc: bits 9 to 5 and no other. -/
def Fsr.setAexc (p : Word) (e : BitVec 5) : Word := p.extractLsb' 10 22 ++ e ++ p.extractLsb' 0 5

/-- An FPop that completes: cexc <- exc, aexc <- aexc | exc, ftt <- 0 (45_floating_point R902 step 5). -/
def Fsr.complete (p : Word) (exc : BitVec 5) : Word :=
  Fsr.setFtt (Fsr.setAexc (Fsr.setCexc p exc) (Fsr.aexc p ||| exc)) 0

/-- An FPop that meets an enabled exception: cexc <- exc, ftt <- 1, IEEE_754_exception (R902 step 4). -/
def Fsr.ieeeTrap (p : Word) (exc : BitVec 5) : Word := Fsr.setFtt (Fsr.setCexc p exc) 1

/-- An unimplemented FPop: ftt <- 3, unimplemented_FPop (R901). -/
def Fsr.unimplementedTrap (p : Word) : Word := Fsr.setFtt p 3

/-- The FSR that LDFSR loads: v with ver, ftt and qne (bits 20 to 14) kept (44_load_store R823). -/
def Fsr.load (p v : Word) : Word := v.extractLsb' 21 11 ++ p.extractLsb' 14 7 ++ v.extractLsb' 0 14

/-- The structured view of an FSR (10_state R120). -/
structure FsrFields where
  rd : BitVec 2
  uhigh : BitVec 2
  tem : BitVec 5
  ns : Bool
  res : Bool
  ver : BitVec 3
  ftt : BitVec 3
  qne : Bool
  fcc : BitVec 2
  ulow : BitVec 2
  aexc : BitVec 5
  cexc : BitVec 5
  deriving DecidableEq, Repr

/-- `castToFSR(raw)` (10_state R123). -/
def castToFSR (raw : Word) : FsrFields where
  rd := Fsr.rd raw
  uhigh := Fsr.uhigh raw
  tem := Fsr.tem raw
  ns := Fsr.ns raw
  res := Fsr.res raw
  ver := Fsr.ver raw
  ftt := Fsr.ftt raw
  qne := Fsr.qne raw
  fcc := Fsr.fcc raw
  ulow := Fsr.ulow raw
  aexc := Fsr.aexc raw
  cexc := Fsr.cexc raw

/-- The fields packed back, most significant first (10_state R123). -/
def packFSR (p : FsrFields) : Word :=
  p.rd ++ p.uhigh ++ p.tem ++ BitVec.ofBool p.ns ++ BitVec.ofBool p.res ++ p.ver ++ p.ftt ++ BitVec.ofBool p.qne ++
    p.fcc ++ p.ulow ++ p.aexc ++ p.cexc

/-! ### TBR (10_state R130) -/

def Tbr.tba (t : Word) : BitVec 20 := t.extractLsb' 12 20
def Tbr.tt (t : Word) : BitVec 8 := t.extractLsb' 4 8
def Tbr.zero (t : Word) : BitVec 4 := t.extractLsb' 0 4

/-- Writing tt: bits 11 to 4 and no other (10_state R131). -/
def Tbr.setTt (t : Word) (tt : BitVec 8) : Word := t.extractLsb' 12 20 ++ tt ++ t.extractLsb' 0 4

/-- Writing tba: bits 31 to 12 and no other (43_window_and_state R723). -/
def Tbr.setTba (t v : Word) : Word := v.extractLsb' 12 20 ++ t.extractLsb' 0 12

/-- The address of entry tt of the trap table, (tba << 12) | (tt << 4) (60_exceptions R1012). -/
def Tbr.entry (t : Word) (tt : BitVec 8) : Word := Tbr.tba t ++ tt ++ 0#4

end Sys2Proof.Machine
end

