-- ==== Sys2Proof/Config.lean ====
section
/-! DEFINITION. The configuration parameters of 00_scope R9 as plain data, their spec values, and the values the spec
leaves open, as constants without a body. -/

namespace Sys2Proof

/-- The arithmetic FPops, one per function of `FPU_ARITH` (45_floating_point R903, R913 to R929). -/
inductive FpOp
  | sqrtS | sqrtD | addS | addD | subS | subD | mulS | mulD | divS | divD
  | smuld | itos | dtos | itod | stod | stoi | dtoi
  deriving DecidableEq, Repr

/-- Parameter `FPU_ARITH` (00_scope R9, OPEN): the reference arithmetic of 45_floating_point R903, or any other. -/
inductive FpuArith
  /-- IEEE 754-1985 binary32 and binary64, the spec's reference configuration. -/
  | ieee754
  /-- An arithmetic the spec does not describe: `Config.fpuOther k`. -/
  | other (k : Nat)
  deriving DecidableEq, Repr

/-- Parameter `FP_NAN` (00_scope R9, OPEN): which NaN a result takes. -/
inductive FpNanRule
  /-- SPARC V8's rule, the spec's reference value (45_floating_point R903). -/
  | sparcV8
  /-- Another rule: `Config.nanOther k`. -/
  | other (k : Nat)
  deriving DecidableEq, Repr

/-- Parameter `FP_NS` (00_scope R9, OPEN): the effect of fsr.ns = 1. -/
inductive FpNsRule
  /-- ns is ignored, the spec's reference value (45_floating_point R903). -/
  | ignored
  /-- Another effect: `Config.nsOther k`. -/
  | other (k : Nat)
  deriving DecidableEq, Repr

/-- The parameters of 00_scope R9. They are fixed at construction and never change (70_reset R1101).
DESIGN CHOICE (log 1): they stand in the machine's state as plain data that no operation writes. -/
structure Config where
  /-- `NWINDOWS`, 2 to 32. -/
  nwindows : Nat
  /-- `ROOT_BITS`. -/
  rootBits : Nat
  /-- `L2_BITS`. -/
  l2Bits : Nat
  /-- `PAGE_BITS`. -/
  pageBits : Nat
  /-- `L2_CAPACITY`; `none` is unbounded. -/
  l2Capacity : Option Nat
  /-- `PAGE_CAPACITY`; `none` is unbounded. -/
  pageCapacity : Option Nat
  /-- `BP_CAPACITY`, at least 1. -/
  bpCapacity : Nat
  /-- The complement of `IMPLEMENTED`: the mnemonics of the rows the decoder does not admit. -/
  notImplemented : List String
  /-- `FPU_ARITH`. -/
  fpuArith : FpuArith
  /-- `FP_NAN`. -/
  fpNan : FpNanRule
  /-- `FP_NS`. -/
  fpNs : FpNsRule
  /-- `ANNUL_TAKEN_BA`. -/
  annulTakenBA : Bool
  deriving DecidableEq, Repr

/-- The bounds 00_scope R9 puts on the parameters. -/
abbrev Config.Legal (c : Config) : Prop :=
  2 ≤ c.nwindows ∧ c.nwindows ≤ 32 ∧ c.rootBits + c.l2Bits + c.pageBits = 32 ∧ 3 ≤ c.pageBits ∧
    1 ≤ c.bpCapacity

/-- The spec values of 00_scope R9, with the reference floating-point configuration of 45_floating_point R903. -/
def Config.spec : Config where
  nwindows := 8
  rootBits := 10
  l2Bits := 10
  pageBits := 12
  l2Capacity := none
  pageCapacity := none
  bpCapacity := 4
  notImplemented := []
  fpuArith := .ieee754
  fpNan := .sparcV8
  fpNs := .ignored
  annulTakenBA := false

/-- Parameter `TT_UNIMPLEMENTED` (00_scope R9): the spec gives no value and raises it nowhere (92 D3). -/
opaque Config.ttUnimplemented : BitVec 8

/-- `FPU_ARITH` of the k-th arithmetic other than the reference one (45_floating_point R903): from the operands, the
rounding direction and ns to the result and the exceptions. Singles and integers stand in the low 32 bits. -/
opaque Config.fpuOther (k : Nat) (op : FpOp) (a b : BitVec 64) (rd : BitVec 2) (ns : Bool) : BitVec 64 × BitVec 5

/-- The k-th effect of fsr.ns = 1 other than none (45_floating_point R903). -/
opaque Config.nsOther (k : Nat) (op : FpOp) (a b : BitVec 64) (rd : BitVec 2) : BitVec 64 × BitVec 5

/-- The NaN that a result takes under the k-th rule other than SPARC V8's (45_floating_point R903). -/
opaque Config.nanOther (k : Nat) (op : FpOp) (a b : BitVec 64) : BitVec 64

/-- The fraction bits below the quiet bit of a double NaN made from a single NaN operand: the spec says that a NaN
result is the quieted NaN operand (45_floating_point R903) and not where its payload goes in the wider format (log 6). -/
opaque Config.nanPayloadD (single : BitVec 32) : BitVec 51

/-- The fraction bits below the quiet bit of a single NaN made from a double NaN operand (log 6). -/
opaque Config.nanPayloadS (double : BitVec 64) : BitVec 22

end Sys2Proof
end

