-- ==== Sys2Proof/Machine/State.lean ====
section
/-! DEFINITION. The whole state of the core as plain data (10_state R154), the outcomes of a step (40_execution_engine
R401), the ways a step stops, and the state at reset (10_state R156). -/

namespace Sys2Proof.Machine

/-- The level at which an allocation failed (20_memory R205). -/
inductive AllocLevel
  /-- `SecondLevelAllocationFailed`. -/
  | secondLevel
  /-- `PageAllocationFailed`. -/
  | page
  deriving DecidableEq, Repr

/-- The outcome of a step, as the spec types it (40_execution_engine R401). -/
inductive Report
  /-- `Continue(trap)`: the instruction completed, or the trap with this tt was taken. -/
  | continued (trap : Option (BitVec 8))
  /-- `Breakpoint(serial)`. -/
  | breakpoint (serial : Nat)
  /-- `Watchpoint(serial, addr, old, new)`. -/
  | watchpoint (serial : Nat) (addr old new : Word)
  /-- `IllegalInstruction(addr, word)`. -/
  | illegalInstruction (addr word : Word)
  /-- `ErrorMode(tt)`. -/
  | errorMode (tt : BitVec 8)
  /-- `AllocationFailed(level)`. -/
  | allocationFailed (level : AllocLevel)
  /-- `InvalidWindow(cwp)`. -/
  | invalidWindow (cwp : BitVec 5)
  deriving DecidableEq, Repr

/-- Why a step ends with no next state. Each is an outcome of 40_execution_engine R401 that changes no state, so the
state to go on from is the one before the step. All are safe: the core itself ends its step there. -/
inductive Fault
  /-- Raised by the step (R412) and by an instruction whose field values are illegal (R417). Safe. -/
  | illegalInstruction (addr word : Word)
  /-- Raised by the step's pre-check (R415): the instruction is not executed. Safe. -/
  | breakpoint (serial : Nat)
  /-- Raised by a store whose page cannot be allocated (R419). Safe. -/
  | allocationFailed (level : AllocLevel)
  /-- Raised by the step while psr.cwp >= NWINDOWS (10_state R108). Safe. -/
  | invalidWindow (cwp : BitVec 5)
  /-- Raised by the step of a core that is already in error mode (60_exceptions R1013). Safe. -/
  | errorMode (tt : BitVec 8)
  deriving DecidableEq, Repr

/-- Why an instruction has no meaning. No instruction of this model answers with it. -/
inductive Refusal
  /-- Raised by an arm of exec that has no meaning yet. Safe. -/
  | notModelled (mnemonic : String)
  deriving DecidableEq, Repr

/-- The AddressSpace (20_memory R201): the bytes that are not zero by rising address, the root slots that own a
second-level table (L2) and the page numbers that own a page (P), each by rising number. -/
structure Memory where
  cells : List Host.Cell
  l2 : List Nat
  pages : List Nat
  deriving DecidableEq, Repr

/-- The kind of a breakpoint entry (60_exceptions R1040). -/
inductive BreakKind
  | execution
  | data
  deriving DecidableEq, Repr

/-- An entry of the BreakpointTable (60_exceptions R1040). -/
structure BreakEntry where
  serial : Nat
  addr : Word
  kind : BreakKind
  deriving DecidableEq, Repr

/-- The BreakpointTable (60_exceptions R1040). -/
structure BreakpointTable where
  entries : List BreakEntry
  nextSerial : Nat
  deriving DecidableEq, Repr

/-- The last-step record (10_state R152). -/
structure LastStep where
  valid : Bool
  addr : Word
  word : Word
  deriving DecidableEq, Repr

/-- One data write of a step's list W (40_execution_engine R402): its address and its bytes, the first at the lowest
address. -/
structure DataWrite where
  addr : Word
  bytes : List Byte
  deriving DecidableEq, Repr

/-- The state of the core (10_state R154). `cfg`, `report` and `writes` are the model's own (log 1, 3, 4). -/
structure State where
  /-- The parameters of 00_scope R9, which no operation writes. -/
  cfg : Config
  /-- G[1..7] (10_state R103): G[k] at index k - 1. -/
  g : Vector Word 7
  /-- W[0 .. 16*NWINDOWS - 1] (10_state R103). -/
  w : List Word
  /-- f[0..31] (10_state R140). -/
  f : Vector Word 32
  /-- The program counter (10_state R109). -/
  pc : Word
  /-- The next program counter (10_state R109). -/
  npc : Word
  /-- The processor status register (10_state R110). -/
  psr : Word
  /-- The floating-point status register (10_state R120). -/
  fsr : Word
  /-- The trap base register (10_state R130). -/
  tbr : Word
  /-- The window invalid mask (10_state R135). -/
  wim : Word
  /-- The multiply and divide extra register (10_state R137). -/
  y : Word
  /-- The error-mode latch (10_state R150). -/
  errorMode : Bool
  /-- The host's view window, when set (10_state R107). -/
  viewOverride : Option Nat
  /-- The last-step record (10_state R152). -/
  last : LastStep
  /-- The AddressSpace (20_memory R201). -/
  mem : Memory
  /-- The BreakpointTable (60_exceptions R1040). -/
  bps : BreakpointTable
  /-- The outcome of the last step that gave a next state (40_execution_engine R401). -/
  report : Report
  /-- W: the data writes of the last instruction (40_execution_engine R402). -/
  writes : List DataWrite
  deriving DecidableEq, Repr

/-- What an instruction's execution answers. -/
abbrev Result := Host.Outcome State Fault Refusal

/-- The state at power-on for a configuration (10_state R156, 70_reset R1101): memory reads 0 everywhere and nothing
is allocated. -/
def State.powerOn (c : Config) : State where
  cfg := c
  g := Vector.replicate 7 0
  w := List.replicate (16 * c.nwindows) 0
  f := Vector.replicate 32 0
  pc := 0
  npc := 4
  psr := 0
  fsr := 0
  tbr := 0
  wim := 0
  y := 0
  errorMode := false
  viewOverride := none
  last := ⟨false, 0, 0⟩
  mem := ⟨[], [], []⟩
  bps := ⟨[], 1⟩
  report := .continued none
  writes := []

/-- The machine right after power-on reset, with the spec values of the parameters (10_state R156, 00_scope R9). -/
def State.reset : State := State.powerOn Config.spec

end Sys2Proof.Machine
end

