-- ==== Sys2Proof/Machine/Ops.lean ====
section
/-! DEFINITION. The named operations over registers, memory and program counters that the meanings share, taking a trap
(60_exceptions R1011, R1013) and returning from one (42_control_transfer R642). -/

namespace Sys2Proof.Machine

/-! ### Integer registers and windows (10_state R100 to R108) -/

/-- A physical slot of the integer register file, or g0, which has none (10_state R103, R104). -/
inductive Slot
  /-- g0: reads zero, discards writes (R102). -/
  | zero
  /-- G[k + 1]. -/
  | global (k : Fin 7)
  /-- W[i]. -/
  | windowed (i : Nat)
  deriving DecidableEq, Repr

/-- Window resolution: the slot of x[r] in window `win` of `nw` windows (10_state R104). -/
def resolve (nw win : Nat) (r : Reg) : Slot :=
  if r.toNat = 0 then .zero
  else if h : r.toNat < 8 then .global ⟨r.toNat - 1, by omega⟩
  else if r.toNat < 16 then .windowed (16 * ((win + nw - 1) % nw) + (r.toNat - 8))
  else if r.toNat < 24 then .windowed (16 * win + 8 + (r.toNat - 16))
  else .windowed (16 * win + (r.toNat - 24))

/-- The value in a slot. -/
def State.readSlot (s : State) : Slot → Word
  | .zero => 0
  | .global k => s.g[k]
  | .windowed i => s.w.getD i 0

/-- The globals after a write to a slot. -/
def Slot.writeGlobals (v : Word) (g : Vector Word 7) : Slot → Vector Word 7
  | .global k => g.set k v
  | .zero => g
  | .windowed _ => g

/-- The windowed registers after a write to a slot. -/
def Slot.writeWindowed (v : Word) (w : List Word) : Slot → List Word
  | .windowed i => w.set i v
  | .zero => w
  | .global _ => w

/-- The state after a write to a slot; a write to g0 is discarded (10_state R102). -/
def State.writeSlot (s : State) (sl : Slot) (v : Word) : State :=
  { s with g := sl.writeGlobals v s.g, w := sl.writeWindowed v s.w }

/-- The current window pointer as a number. -/
def State.window (s : State) : Nat := (Psr.cwp s.psr).toNat

/-- x[r] in a given window. -/
def State.xIn (s : State) (win : Nat) (r : Reg) : Word := s.readSlot (resolve s.cfg.nwindows win r)

/-- x[r] through the current window (00_scope R13). -/
def State.x (s : State) (r : Reg) : Word := s.xIn s.window r

/-- x[r] <- v in a given window. -/
def State.setXIn (s : State) (win : Nat) (r : Reg) (v : Word) : State :=
  s.writeSlot (resolve s.cfg.nwindows win r) v

/-- x[r] <- v through the current window (00_scope R13). -/
def State.setX (s : State) (r : Reg) (v : Word) : State := s.setXIn s.window r v

/-- The window SAVE and trap entry move to: (cwp + NWINDOWS - 1) mod NWINDOWS (43_window_and_state R700). -/
def State.previousWindow (s : State) : BitVec 5 :=
  BitVec.ofNat 5 ((s.window + s.cfg.nwindows - 1) % s.cfg.nwindows)

/-- The window RESTORE and RETT move to: (cwp + 1) mod NWINDOWS (43_window_and_state R701). -/
def State.followingWindow (s : State) : BitVec 5 := BitVec.ofNat 5 ((s.window + 1) % s.cfg.nwindows)

/-- Whether WIM marks a window invalid (10_state R135). -/
def State.windowInvalid (s : State) (c : BitVec 5) : Bool := s.wim.getLsbD c.toNat

/-! ### Status-register writes -/

/-- psr.cwp <- c. -/
def State.setCwp (s : State) (c : BitVec 5) : State := { s with psr := Psr.setCwp s.psr c }

/-- psr.icc <- i (41_integer_arithmetic R504). -/
def State.setIcc (s : State) (i : Icc) : State := { s with psr := Psr.setIcc s.psr i }

/-- y <- v. -/
def State.setY (s : State) (v : Word) : State := { s with y := v }

/-- fsr <- v. -/
def State.setFsr (s : State) (v : Word) : State := { s with fsr := v }

/-! ### Floating-point registers (10_state R140) -/

/-- f[r]. -/
def State.fr (s : State) (r : Reg) : Word := s.f[r.toFin]

/-- f[r] <- v. -/
def State.setF (s : State) (r : Reg) (v : Word) : State := { s with f := s.f.set r.toFin v }

/-- fd[r] for an even r: f[r] ++ f[r + 1], the even register holding the most significant word. -/
def State.fd (s : State) (r : Reg) : BitVec 64 := s.fr r ++ s.fr (r + 1)

/-- fd[r] <- v for an even r. -/
def State.setFd (s : State) (r : Reg) (v : BitVec 64) : State :=
  (s.setF r (v.extractLsb' 32 32)).setF (r + 1) (v.extractLsb' 0 32)

/-- A register number that a double or a doubleword may not name (30_encoding R331). -/
def oddReg (r : Reg) : Bool := r.getLsbD 0

/-! ### Memory (20_memory) -/

/-- The byte a list of cells holds for an address; an address with no cell reads 0 (20_memory R202). -/
def cellByte : List Host.Cell → Nat → Byte
  | [], _ => 0
  | (b, v) :: rest, a => if b = a then v else cellByte rest a

/-- The cells with a non-zero byte put in at its place. -/
def insertCell : List Host.Cell → Nat → Byte → List Host.Cell
  | [], a, v => [(a, v)]
  | (b, u) :: rest, a, v =>
    if a < b then (a, v) :: (b, u) :: rest
    else if b = a then (a, v) :: rest
    else (b, u) :: insertCell rest a v

/-- The cells after a byte write: writing 0, which an unlisted address reads as, removes the cell. -/
def setCell (cells : List Host.Cell) (a : Nat) (v : Byte) : List Host.Cell :=
  if v = 0 then cells.filter (fun c => c.1 != a) else insertCell cells a v

/-- `Mem(a)` (20_memory R202). -/
def Memory.byte (m : Memory) (a : Word) : Byte := cellByte m.cells a.toNat

/-- Bytes stored from an address up, with no allocation. -/
def Memory.storeBytes (m : Memory) (a : Word) : List Byte → Memory
  | [] => m
  | b :: bs => Memory.storeBytes { m with cells := setCell m.cells a.toNat b } (a + 1) bs

/-- The page number of an address (20_memory R201). -/
def pageNumber (c : Config) (a : Word) : Nat := a.toNat / 2 ^ c.pageBits

/-- The root index of an address (20_memory R201). -/
def rootIndex (c : Config) (a : Word) : Nat := a.toNat / 2 ^ (32 - c.rootBits)

/-- A number put at its place into a rising list that does not hold it. -/
def insertRising : List Nat → Nat → List Nat
  | [], n => [n]
  | k :: rest, n => if n < k then n :: k :: rest else k :: insertRising rest n

/-- A number added to a set held as a rising list. -/
def insertNumber (l : List Nat) (n : Nat) : List Nat := if l.contains n then l else insertRising l n

/-- The page of an address made to exist, without a look at the capacities (20_memory R205, its last two lines). -/
def Memory.addPage (c : Config) (m : Memory) (a : Word) : Memory :=
  { m with l2 := insertNumber m.l2 (rootIndex c a), pages := insertNumber m.pages (pageNumber c a) }

/-- `ensure(a)`: the page of a exists, or a typed failure that leaves everything as it was (20_memory R205). -/
def Memory.ensure (c : Config) (m : Memory) (a : Word) : Except AllocLevel Memory :=
  if !m.l2.contains (rootIndex c a) && c.l2Capacity == some m.l2.length then .error .secondLevel
  else if !m.pages.contains (pageNumber c a) && c.pageCapacity == some m.pages.length then .error .page
  else .ok (m.addPage c a)

/-- `MemRead(a, 1)` (20_memory R210). -/
def Memory.read1 (m : Memory) (a : Word) : BitVec 8 := m.byte a

/-- `MemRead(a, 2)`, big-endian (20_memory R207, R210). -/
def Memory.read2 (m : Memory) (a : Word) : BitVec 16 := m.byte a ++ m.byte (a + 1)

/-- `MemRead(a, 4)`, big-endian. -/
def Memory.read4 (m : Memory) (a : Word) : Word :=
  wordOfBytes (m.byte a) (m.byte (a + 1)) (m.byte (a + 2)) (m.byte (a + 3))

/-- `MemRead(a, 8)`: the word at the lower address is the more significant (20_memory R207). -/
def Memory.read8 (m : Memory) (a : Word) : BitVec 64 := m.read4 a ++ m.read4 (a + 4)

/-- The two bytes of a half-word, the most significant first. -/
def bytesOfHalf (v : BitVec 16) : List Byte := [v.extractLsb' 8 8, v.extractLsb' 0 8]

/-- The eight bytes of a doubleword, the most significant first. -/
def bytesOfDouble (v : BitVec 64) : List Byte := bytesOfWord (v.extractLsb' 32 32) ++ bytesOfWord (v.extractLsb' 0 32)

/-- `MemWrite`: the page is made to exist, then the bytes are stored; a failure writes nothing (20_memory R211). -/
def Memory.write (c : Config) (m : Memory) (a : Word) (bytes : List Byte) : Except AllocLevel Memory :=
  match m.ensure c a with
  | .error l => .error l
  | .ok m' => .ok (m'.storeBytes a bytes)

/-- Whether an access of n bytes is aligned (20_memory R212). -/
def aligned (a : Word) (n : Nat) : Bool := a.toNat % n == 0

/-- `align(a)`: a & 0xFFFFFFFC (20_memory R213). -/
def alignWord (a : Word) : Word := a &&& 0xFFFFFFFC

/-- The list of numbers rises strictly. -/
abbrev Rising (l : List Nat) : Prop := l.Pairwise (· < ·)

/-- The canonical form of memory: addresses strictly rising and below 2^32, no cell equal to what an unlisted address
reads as, and the two allocation sets strictly rising. -/
abbrev Memory.wf (m : Memory) : Prop :=
  Rising (m.cells.map Prod.fst) ∧ (∀ c ∈ m.cells, c.1 < 2 ^ 32 ∧ c.2 ≠ 0) ∧ Rising m.l2 ∧ Rising m.pages

/-! ### Program counters (40_execution_engine R420, R421) -/

/-- The address the step fetches from: pc & 0xFFFFFFFC (40_execution_engine R410). -/
def State.fetchAddr (s : State) : Word := alignWord s.pc

/-- The word the step fetches (40_execution_engine R410). -/
def State.fetchWord (s : State) : Word := s.mem.read4 s.fetchAddr

/-- The end of an instruction that completes: pc and npc, no trap, no data write. -/
def State.goTo (s : State) (pc npc : Word) : State :=
  { s with pc := pc, npc := npc, report := .continued none, writes := [] }

/-- Sequential advance: pc <- npc, npc <- npc + 4 (R420). -/
def State.advance (s : State) : State := s.goTo s.npc (s.npc + 4)

/-- A delayed transfer: pc <- npc, npc <- target (R421). -/
def State.jumpTo (s : State) (target : Word) : State := s.goTo s.npc target

/-! ### Stops and traps -/

/-- `illegal`: the outcome IllegalInstruction(fa, word), with no state change (40_execution_engine R417). -/
def illegal (s : State) : Result := .fault (.illegalInstruction s.fetchAddr s.fetchWord)

/-- A register field that names a pair, of a doubleword or of a double, must be even (30_encoding R331). -/
def evenPair (r : Reg) (s : State) (body : Result) : Result := if oddReg r then illegal s else body

/-- The trap types (60_exceptions R1001). -/
inductive TrapType
  /-- Never raised: the IllegalInstruction outcome stands for it. -/
  | illegalInstruction
  | privilegedInstruction
  | fpDisabled
  | windowOverflow
  | windowUnderflow
  | memAddressNotAligned
  | fpException
  | tagOverflow
  /-- Never raised: FLUSH does nothing. -/
  | unimplementedFlush
  | divisionByZero
  /-- Never raised; its code is the parameter TT_UNIMPLEMENTED. -/
  | unimplementedInstruction
  deriving DecidableEq, Repr

/-- The tt code of a trap type (60_exceptions R1001). -/
def TrapType.tt : TrapType → BitVec 8
  | .illegalInstruction => 0x02
  | .privilegedInstruction => 0x03
  | .fpDisabled => 0x04
  | .windowOverflow => 0x05
  | .windowUnderflow => 0x06
  | .memAddressNotAligned => 0x07
  | .fpException => 0x08
  | .tagOverflow => 0x0A
  | .unimplementedFlush => 0x25
  | .divisionByZero => 0x2A
  | .unimplementedInstruction => Config.ttUnimplemented

/-- `take_trap(tt)`: the trap entry sequence (60_exceptions R1011). l1 and l2 of the new window get the pc and npc of
the trapping instruction; WIM is not looked at. -/
def takeTrap (tt : BitVec 8) (s : State) : State :=
  let entered := { s with psr := Psr.enterTrap s.psr s.previousWindow }
  let saved := (entered.setX 17 s.pc).setX 18 s.npc
  { saved with
    tbr := Tbr.setTt s.tbr tt
    pc := Tbr.entry s.tbr tt
    npc := Tbr.entry s.tbr tt + 4
    report := .continued (some tt)
    writes := [] }

/-- `enter_error_mode(tt)` (60_exceptions R1013). -/
def enterErrorMode (tt : BitVec 8) (s : State) : State :=
  { s with errorMode := true, tbr := Tbr.setTt s.tbr tt, report := .errorMode tt, writes := [] }

/-- `raise t`: the trap is taken when psr.et = 1, and otherwise the core enters error mode (60_exceptions R1010). -/
def raise (t : TrapType) (s : State) : Result :=
  if Psr.et s.psr then .next (takeTrap t.tt s) else .next (enterErrorMode t.tt s)

/-- The return from a trap: window, privilege and et restored, then the delayed transfer (42_control_transfer R642,
60_exceptions R1014). -/
def returnFromTrap (target : Word) (s : State) : State :=
  State.jumpTo { s with psr := Psr.returnFromTrap s.psr s.followingWindow } target

/-- A privileged instruction: in user mode it raises privileged_instruction and does nothing else (60_exceptions
R1020). -/
def privileged (s : State) (body : Result) : Result :=
  if Psr.s s.psr then body else raise .privilegedInstruction s

/-- A floating-point instruction: with psr.ef = 0 it raises fp_disabled (45_floating_point R900). -/
def fpEnabled (s : State) (body : Result) : Result :=
  if Psr.ef s.psr then body else raise .fpDisabled s

/-- An access that must be aligned: it raises mem_address_not_aligned before it reaches memory (44_load_store R801). -/
def whenAligned (a : Word) (n : Nat) (s : State) (body : Result) : Result :=
  if aligned a n then body else raise .memAddressNotAligned s

/-- A store of bytes (20_memory R211), with `after` for what the instruction writes besides memory: it completes with
its write appended to W (44_load_store R803), or allocates nothing and stops (40_execution_engine R419). -/
def storeThen (a : Word) (bytes : List Byte) (after : State → State) (s : State) : Result :=
  match s.mem.write s.cfg a bytes with
  | .error l => .fault (.allocationFailed l)
  | .ok m => .next { (after { s with mem := m }).advance with writes := [⟨a, bytes⟩] }

end Sys2Proof.Machine
end

