-- ==== Sys2Proof/Machine/Flags.lean ====
section
/-! DEFINITION. Every flag computation: icc of add, subtract and logic (41_integer_arithmetic R501 to R503), the tag
overflow (R545 to R548), the branch conditions (42_control_transfer R601, R611) and the floating-point compare
(45_floating_point R940). -/

namespace Sys2Proof.Machine

/-- A carry or borrow as an integer. -/
def carryIn (cin : Bool) : Int := if cin then 1 else 0

/-- The signed range of 32 bits holds an exact integer. -/
def fitsSigned (n : Int) : Bool := decide (-2 ^ 31 ≤ n) && decide (n ≤ 2 ^ 31 - 1)

/-- n and z of a 32-bit result, with given v and c. -/
def iccOf (r : Word) (v c : Bool) : Icc := ⟨r.msb, r == 0, v, c⟩

/-- `add_cc(a, b, cin)`: the sum (41_integer_arithmetic R501). -/
def addValue (a b : Word) (cin : Bool) : Word := a + b + BitVec.ofInt 32 (carryIn cin)

/-- `add_cc(a, b, cin)`: the flags (41_integer_arithmetic R501). -/
def addIcc (a b : Word) (cin : Bool) : Icc :=
  iccOf (addValue a b cin) (!fitsSigned (a.toInt + b.toInt + carryIn cin))
    (decide ((2 : Int) ^ 32 ≤ a.toNat + b.toNat + carryIn cin))

/-- `sub_cc(a, b, cin)`: the difference (41_integer_arithmetic R502). -/
def subValue (a b : Word) (cin : Bool) : Word := a - b - BitVec.ofInt 32 (carryIn cin)

/-- `sub_cc(a, b, cin)`: the flags; c is the borrow (41_integer_arithmetic R502). -/
def subIcc (a b : Word) (cin : Bool) : Icc :=
  iccOf (subValue a b cin) (!fitsSigned (a.toInt - b.toInt - carryIn cin))
    (decide ((a.toNat : Int) < b.toNat + carryIn cin))

/-- `logic_cc(r)` (41_integer_arithmetic R503). -/
def logicIcc (r : Word) : Icc := iccOf r false false

/-- A nonzero tag in either operand (41_integer_arithmetic R545). -/
def tagged (a b : Word) : Bool := a.extractLsb' 0 2 != 0 || b.extractLsb' 0 2 != 0

/-- The tag overflow tv of an operation with overflow flag i.v (41_integer_arithmetic R545). -/
def tagOverflow (i : Icc) (a b : Word) : Bool := i.v || tagged a b

/-- The flags of a tagged operation: v is the tag overflow (41_integer_arithmetic R545). -/
def taggedIcc (i : Icc) (a b : Word) : Icc := { i with v := tagOverflow i a b }

/-- The integer conditions of Bicc (42_control_transfer R601). -/
inductive IntCond
  | n | e | le | l | leu | cs | neg | vs | a | ne | g | ge | gu | cc | pos | vc
  deriving DecidableEq, Repr

/-- Whether an integer condition holds of icc (42_control_transfer R601). -/
def IntCond.holds (i : Icc) : IntCond → Bool
  | .n => false
  | .e => i.z
  | .le => i.z || (i.n ^^ i.v)
  | .l => i.n ^^ i.v
  | .leu => i.c || i.z
  | .cs => i.c
  | .neg => i.n
  | .vs => i.v
  | .a => true
  | .ne => !i.z
  | .g => !(i.z || (i.n ^^ i.v))
  | .ge => !(i.n ^^ i.v)
  | .gu => !(i.c || i.z)
  | .cc => !i.c
  | .pos => !i.n
  | .vc => !i.v

/-- The floating-point conditions of FBfcc (42_control_transfer R611). -/
inductive FpCond
  | n | ne | lg | ul | l | ug | g | u | a | e | ue | ge | uge | le | ule | o
  deriving DecidableEq, Repr

/-- Whether a floating-point condition holds of fcc: 0 is E, 1 is L, 2 is G and 3 is U (42_control_transfer R611,
10_state R124). -/
def FpCond.holds (fcc : BitVec 2) : FpCond → Bool
  | .n => false
  | .ne => fcc == 1 || fcc == 2 || fcc == 3
  | .lg => fcc == 1 || fcc == 2
  | .ul => fcc == 1 || fcc == 3
  | .l => fcc == 1
  | .ug => fcc == 2 || fcc == 3
  | .g => fcc == 2
  | .u => fcc == 3
  | .a => true
  | .e => fcc == 0
  | .ue => fcc == 0 || fcc == 3
  | .ge => fcc == 0 || fcc == 2
  | .uge => fcc == 0 || fcc == 2 || fcc == 3
  | .le => fcc == 0 || fcc == 1
  | .ule => fcc == 0 || fcc == 1 || fcc == 3
  | .o => fcc == 0 || fcc == 1 || fcc == 2

/-- The exception set with nv alone, in the order nv of uf dz nx (10_state R122). -/
def excNv : BitVec 5 := 0x10

/-- isNaN of a single (45_floating_point R940). -/
def isNanS (a : BitVec 32) : Bool := a.extractLsb' 23 8 == 0xFF && a.extractLsb' 0 23 != 0

/-- isNaN of a double (45_floating_point R940). -/
def isNanD (a : BitVec 64) : Bool := a.extractLsb' 52 11 == 0x7FF && a.extractLsb' 0 52 != 0

/-- isSNaN of a single: the fraction's most significant bit is 0 (45_floating_point R940). -/
def isSignalingS (a : BitVec 32) : Bool := isNanS a && !a.getLsbD 22

/-- isSNaN of a double (45_floating_point R940). -/
def isSignalingD (a : BitVec 64) : Bool := isNanD a && !a.getLsbD 51

/-- The order of the non-NaN singles as real numbers: sign and magnitude as an integer, with +0 = -0. -/
def orderS (a : BitVec 32) : Int := if a.msb then -((a.extractLsb' 0 31).toNat : Int) else (a.extractLsb' 0 31).toNat

/-- The order of the non-NaN doubles as real numbers. -/
def orderD (a : BitVec 64) : Int := if a.msb then -((a.extractLsb' 0 63).toNat : Int) else (a.extractLsb' 0 63).toNat

/-- fcc of two ordered operands: 0 equal, 1 less, 2 greater (10_state R124). -/
def orderedFcc (a b : Int) : BitVec 2 := if a = b then 0 else if a < b then 1 else 2

/-- `fcompare` (45_floating_point R940) from what it asks of its operands. -/
def fcompare (unordered signaling : Bool) (a b : Int) (signalQnan : Bool) : BitVec 2 × BitVec 5 :=
  if unordered then (3, if signalQnan || signaling then excNv else 0) else (orderedFcc a b, 0)

/-- `fcompare_s` (45_floating_point R930, R932, R940). -/
def fcompareS (a b : BitVec 32) (signalQnan : Bool) : BitVec 2 × BitVec 5 :=
  fcompare (isNanS a || isNanS b) (isSignalingS a || isSignalingS b) (orderS a) (orderS b) signalQnan

/-- `fcompare_d` (45_floating_point R931, R933, R940). -/
def fcompareD (a b : BitVec 64) (signalQnan : Bool) : BitVec 2 × BitVec 5 :=
  fcompare (isNanD a || isNanD b) (isSignalingD a || isSignalingD b) (orderD a) (orderD b) signalQnan

end Sys2Proof.Machine
end

