-- ==== Sys2Proof/Machine/Operands.lean ====
section
/-! DEFINITION. The operand forms: op2 (30_encoding R310), effective addresses (44_load_store R800), branch and call
targets (30_encoding R313, R314), shift counts (R315) and the SETHI immediate (R312). -/

namespace Sys2Proof.Machine

/-- `op2`: x[rs2], or simm13 sign-extended (30_encoding R310, R311). -/
def State.operand (s : State) : Op2 → Word
  | .reg rs2 => s.x rs2
  | .imm simm13 => simm13.signExtend 32

/-- x[rs1] + op2 modulo 2^32: the effective address of a load or store (44_load_store R800) and the target of JMPL and
RETT (42_control_transfer R621, R642). -/
def State.address (s : State) (rs1 : Reg) (op2 : Op2) : Word := s.x rs1 + s.operand op2

/-- x[rs1] ^ op2: what the register-write instructions write (43_window_and_state R702). -/
def State.writeValue (s : State) (rs1 : Reg) (op2 : Op2) : Word := s.x rs1 ^^^ s.operand op2

/-- The target of a branch: pc + sext_32(disp22 ++ 0b00) (30_encoding R313). -/
def branchTarget (pc : Word) (disp22 : BitVec 22) : Word := pc + (disp22 ++ 0#2).signExtend 32

/-- The target of CALL: pc + (disp30 ++ 0b00) (30_encoding R314). -/
def callTarget (pc : Word) (disp30 : BitVec 30) : Word := pc + (disp30 ++ 0#2)

/-- The shift count: the low 5 bits of op2 (30_encoding R315). -/
def shiftCount (op2 : Word) : Nat := (op2.extractLsb' 0 5).toNat

/-- imm22 << 10 (30_encoding R312). -/
def sethiValue (imm22 : BitVec 22) : Word := imm22 ++ 0#10

end Sys2Proof.Machine
end

