-- ==== Sys2Proof/Machine/Branch.lean ====
section
/-! DEFINITION. The branches: Bicc (42_control_transfer R650 to R665) and FBfcc (R670 to R685). -/

namespace Sys2Proof.Machine

/-- `branch(cond_holds, is_always)` (42_control_transfer R600): the new pc and npc. -/
def branch (holds isAlways a : Bool) (disp22 : BitVec 22) (s : State) : State :=
  if holds then
    if a && isAlways && s.cfg.annulTakenBA then s.goTo (branchTarget s.pc disp22) (branchTarget s.pc disp22 + 4)
    else s.goTo s.npc (branchTarget s.pc disp22)
  else if a then s.goTo (s.npc + 4) (s.npc + 8)
  else s.goTo s.npc (s.npc + 4)

/-- A Bicc that tests icc (42_control_transfer R601). -/
def branchIcc (c : IntCond) (isAlways a : Bool) (disp22 : BitVec 22) (s : State) : Result :=
  .next (branch (c.holds (Psr.icc s.psr)) isAlways a disp22 s)

/-- An FBfcc: fp_disabled when psr.ef = 0, and otherwise a branch on fsr.fcc (42_control_transfer R610, R611). -/
def branchFcc (c : FpCond) (isAlways a : Bool) (disp22 : BitVec 22) (s : State) : Result :=
  fpEnabled s (.next (branch (c.holds (Fsr.fcc s.fsr)) isAlways a disp22 s))

/-! ### Bicc -/

/-- BA (42_control_transfer R650). -/
def execBa (a : Bool) (disp22 : BitVec 22) (s : State) : Result := branchIcc .a true a disp22 s

/-- BN (42_control_transfer R651). -/
def execBn (a : Bool) (disp22 : BitVec 22) (s : State) : Result := branchIcc .n false a disp22 s

/-- BNE (42_control_transfer R652). -/
def execBne (a : Bool) (disp22 : BitVec 22) (s : State) : Result := branchIcc .ne false a disp22 s

/-- BE (42_control_transfer R653). -/
def execBe (a : Bool) (disp22 : BitVec 22) (s : State) : Result := branchIcc .e false a disp22 s

/-- BG (42_control_transfer R654). -/
def execBg (a : Bool) (disp22 : BitVec 22) (s : State) : Result := branchIcc .g false a disp22 s

/-- BLE (42_control_transfer R655). -/
def execBle (a : Bool) (disp22 : BitVec 22) (s : State) : Result := branchIcc .le false a disp22 s

/-- BGE (42_control_transfer R656). -/
def execBge (a : Bool) (disp22 : BitVec 22) (s : State) : Result := branchIcc .ge false a disp22 s

/-- BL (42_control_transfer R657). -/
def execBl (a : Bool) (disp22 : BitVec 22) (s : State) : Result := branchIcc .l false a disp22 s

/-- BGU (42_control_transfer R658). -/
def execBgu (a : Bool) (disp22 : BitVec 22) (s : State) : Result := branchIcc .gu false a disp22 s

/-- BLEU (42_control_transfer R659). -/
def execBleu (a : Bool) (disp22 : BitVec 22) (s : State) : Result := branchIcc .leu false a disp22 s

/-- BCC (42_control_transfer R660). -/
def execBcc (a : Bool) (disp22 : BitVec 22) (s : State) : Result := branchIcc .cc false a disp22 s

/-- BCS (42_control_transfer R661). -/
def execBcs (a : Bool) (disp22 : BitVec 22) (s : State) : Result := branchIcc .cs false a disp22 s

/-- BPOS (42_control_transfer R662). -/
def execBpos (a : Bool) (disp22 : BitVec 22) (s : State) : Result := branchIcc .pos false a disp22 s

/-- BNEG (42_control_transfer R663). -/
def execBneg (a : Bool) (disp22 : BitVec 22) (s : State) : Result := branchIcc .neg false a disp22 s

/-- BVC (42_control_transfer R664). -/
def execBvc (a : Bool) (disp22 : BitVec 22) (s : State) : Result := branchIcc .vc false a disp22 s

/-- BVS (42_control_transfer R665). -/
def execBvs (a : Bool) (disp22 : BitVec 22) (s : State) : Result := branchIcc .vs false a disp22 s

/-! ### FBfcc -/

/-- FBA (42_control_transfer R670). -/
def execFba (a : Bool) (disp22 : BitVec 22) (s : State) : Result := branchFcc .a true a disp22 s

/-- FBN (42_control_transfer R671). -/
def execFbn (a : Bool) (disp22 : BitVec 22) (s : State) : Result := branchFcc .n false a disp22 s

/-- FBU (42_control_transfer R672). -/
def execFbu (a : Bool) (disp22 : BitVec 22) (s : State) : Result := branchFcc .u false a disp22 s

/-- FBG (42_control_transfer R673). -/
def execFbg (a : Bool) (disp22 : BitVec 22) (s : State) : Result := branchFcc .g false a disp22 s

/-- FBUG (42_control_transfer R674). -/
def execFbug (a : Bool) (disp22 : BitVec 22) (s : State) : Result := branchFcc .ug false a disp22 s

/-- FBL (42_control_transfer R675). -/
def execFbl (a : Bool) (disp22 : BitVec 22) (s : State) : Result := branchFcc .l false a disp22 s

/-- FBUL (42_control_transfer R676). -/
def execFbul (a : Bool) (disp22 : BitVec 22) (s : State) : Result := branchFcc .ul false a disp22 s

/-- FBLG (42_control_transfer R677). -/
def execFblg (a : Bool) (disp22 : BitVec 22) (s : State) : Result := branchFcc .lg false a disp22 s

/-- FBNE (42_control_transfer R678). -/
def execFbne (a : Bool) (disp22 : BitVec 22) (s : State) : Result := branchFcc .ne false a disp22 s

/-- FBE (42_control_transfer R679). -/
def execFbe (a : Bool) (disp22 : BitVec 22) (s : State) : Result := branchFcc .e false a disp22 s

/-- FBUE (42_control_transfer R680). -/
def execFbue (a : Bool) (disp22 : BitVec 22) (s : State) : Result := branchFcc .ue false a disp22 s

/-- FBGE (42_control_transfer R681). -/
def execFbge (a : Bool) (disp22 : BitVec 22) (s : State) : Result := branchFcc .ge false a disp22 s

/-- FBUGE (42_control_transfer R682). -/
def execFbuge (a : Bool) (disp22 : BitVec 22) (s : State) : Result := branchFcc .uge false a disp22 s

/-- FBLE (42_control_transfer R683). -/
def execFble (a : Bool) (disp22 : BitVec 22) (s : State) : Result := branchFcc .le false a disp22 s

/-- FBULE (42_control_transfer R684). -/
def execFbule (a : Bool) (disp22 : BitVec 22) (s : State) : Result := branchFcc .ule false a disp22 s

/-- FBO (42_control_transfer R685). -/
def execFbo (a : Bool) (disp22 : BitVec 22) (s : State) : Result := branchFcc .o false a disp22 s

end Sys2Proof.Machine
end

