-- ==== Sys2Proof/Machine/Control.lean ====
section
/-! DEFINITION. CALL, JMPL, RETT and UNIMP (42_control_transfer R620, R621, R642, R645). -/

namespace Sys2Proof.Machine

/-- CALL (42_control_transfer R620): o7 gets the address of the CALL itself. -/
def execCall (disp30 : BitVec 30) (s : State) : Result :=
  .next ((s.setX 15 s.pc).jumpTo (callTarget s.pc disp30))

/-- JMPL (42_control_transfer R621): the target is computed before x[rd] is written. -/
def execJmpl (rd rs1 : Reg) (op2 : Op2) (s : State) : Result :=
  whenAligned (s.address rs1 op2) 4 s (.next ((s.setX rd s.pc).jumpTo (s.address rs1 op2)))

/-- RETT (42_control_transfer R642). With psr.et = 1 it is privileged_instruction in user mode and illegal in
supervisor mode; with psr.et = 0 each of its three trap conditions enters error mode. -/
def execRett (rs1 : Reg) (op2 : Op2) (s : State) : Result :=
  if Psr.et s.psr && Psr.s s.psr then illegal s
  else
    privileged s <|
      if s.windowInvalid s.followingWindow then raise .windowUnderflow s
      else whenAligned (s.address rs1 op2) 4 s (.next (returnFromTrap (s.address rs1 op2) s))

/-- UNIMP (42_control_transfer R645): the core reports IllegalInstruction and changes nothing. -/
def execUnimp (_imm22 : BitVec 22) (s : State) : Result := illegal s

end Sys2Proof.Machine
end

