-- ==== Sys2Proof/Machine/SoftFloat.lean ====
section
/-! DEFINITION. `FPU_ARITH` (45_floating_point R903): the reference configuration, IEEE 754-1985 binary32 and binary64
arithmetic computed exactly and then rounded, and the choice among the parameters. -/

namespace Sys2Proof.Machine

/-- A binary floating-point format. -/
structure Format where
  expBits : Nat
  fracBits : Nat
  deriving DecidableEq, Repr

/-- binary32. -/
def binary32 : Format := ⟨8, 23⟩

/-- binary64. -/
def binary64 : Format := ⟨11, 52⟩

/-- The exponent of the least significant bit of a subnormal: 1 - bias - fracBits. -/
def Format.minExp (f : Format) : Int := 2 - 2 ^ (f.expBits - 1) - f.fracBits

/-- The bits of +infinity. -/
def Format.infBits (f : Format) : Nat := (2 ^ f.expBits - 1) * 2 ^ f.fracBits

/-- Magnitude bits with a sign. -/
def Format.signed (f : Format) (neg : Bool) (magnitude : Nat) : BitVec 64 :=
  BitVec.ofNat 64 ((if neg then 2 ^ (f.expBits + f.fracBits) else 0) + magnitude)

/-- A floating-point datum: a NaN, an infinity, or the number (-1)^neg * m * 2^e. -/
inductive Datum
  | nan (signaling : Bool)
  | inf (neg : Bool)
  | fin (neg : Bool) (m : Nat) (e : Int)
  deriving DecidableEq, Repr

/-- The datum that bits stand for. -/
def Format.unpack (f : Format) (bits : BitVec 64) : Datum :=
  let neg := bits.getLsbD (f.expBits + f.fracBits)
  let exp := bits.toNat / 2 ^ f.fracBits % 2 ^ f.expBits
  let frac := bits.toNat % 2 ^ f.fracBits
  if exp = 2 ^ f.expBits - 1 then
    if frac = 0 then .inf neg else .nan (!bits.getLsbD (f.fracBits - 1))
  else if exp = 0 then .fin neg frac f.minExp
  else .fin neg (2 ^ f.fracBits + frac) (f.minExp + exp - 1)

/-! ### Rounding -/

/-- Whether rounding goes away from zero (10_state R121): 0 to nearest even, 1 to zero, 2 to +infinity, 3 to
-infinity. `twice` is twice the discarded part, `unit` the weight of the kept part's last bit. -/
def roundsUp (rd : BitVec 2) (neg odd : Bool) (twice unit : Nat) : Bool :=
  match rd.toNat with
  | 0 => decide (unit < twice) || (twice == unit && odd)
  | 1 => false
  | 2 => !neg && twice != 0
  | _ => neg && twice != 0

/-- m * 2^e as a multiple of 2^x: the rounded multiple, and whether it is inexact. -/
def roundAt (rd : BitVec 2) (neg : Bool) (m : Nat) (e x : Int) : Nat × Bool :=
  if x ≤ e then (m * 2 ^ (e - x).toNat, false)
  else
    let unit := 2 ^ (x - e).toNat
    let q := m / unit
    let r := m % unit
    (if roundsUp rd neg (q % 2 == 1) (2 * r) unit then q + 1 else q, r != 0)

/-- Whether an overflow gives infinity rather than the largest finite number. -/
def overflowsToInf (rd : BitVec 2) (neg : Bool) : Bool :=
  match rd.toNat with
  | 0 => true
  | 1 => false
  | 2 => !neg
  | _ => neg

/-- The exception set in the order nv of uf dz nx (10_state R122). -/
def excSet (nv ov uf dz nx : Bool) : BitVec 5 :=
  BitVec.ofBool nv ++ BitVec.ofBool ov ++ BitVec.ofBool uf ++ BitVec.ofBool dz ++ BitVec.ofBool nx

/-- (-1)^neg * m * 2^e rounded into a format, with its exceptions; tininess is detected after rounding (R903). -/
def Format.round (f : Format) (rd : BitVec 2) (neg : Bool) (m : Nat) (e : Int) : BitVec 64 × BitVec 5 :=
  if m = 0 then (f.signed neg 0, 0)
  else
    let free : Int := e + m.log2 - f.fracBits
    let lsb := max free f.minExp
    let (kept, inexact) := roundAt rd neg m e lsb
    let bits := (lsb - f.minExp).toNat * 2 ^ f.fracBits + kept
    if f.infBits ≤ bits then
      (f.signed neg (if overflowsToInf rd neg then f.infBits else f.infBits - 1), excSet false true false false true)
    else
      let unbounded := (roundAt rd neg m e free).1
      let tiny := decide (free < f.minExp) && !(free + 1 == f.minExp && unbounded == 2 ^ (f.fracBits + 1))
      (f.signed neg bits, excSet false false (tiny && inexact) false inexact)

/-! ### The operations on operands that are not NaN -/

/-- A result before rounding. -/
inductive Exact
  /-- An invalid operation: nv. -/
  | invalid
  /-- An infinity, with dz when a finite number was divided by zero. -/
  | inf (neg dz : Bool)
  /-- A number to be rounded. -/
  | num (neg : Bool) (m : Nat) (e : Int)
  deriving DecidableEq, Repr

/-- A signed magnitude as an integer. -/
def signedInt (neg : Bool) (m : Nat) : Int := if neg then -(m : Int) else m

/-- The sum of two numbers; an exact zero is +0, but -0 under rounding toward -infinity or for two negative zeros. -/
def addNumbers (rd : BitVec 2) (na : Bool) (ma : Nat) (ea : Int) (nb : Bool) (mb : Nat) (eb : Int) : Exact :=
  let e := min ea eb
  let sum := signedInt na (ma * 2 ^ (ea - e).toNat) + signedInt nb (mb * 2 ^ (eb - e).toNat)
  .num (if sum = 0 then (if na = nb then na else rd == 3) else decide (sum < 0)) sum.natAbs e

/-- Addition. -/
def addData (rd : BitVec 2) : Datum → Datum → Exact
  | .fin na ma ea, .fin nb mb eb => addNumbers rd na ma ea nb mb eb
  | .inf na, .inf nb => if na = nb then .inf na false else .invalid
  | .inf na, _ => .inf na false
  | _, .inf nb => .inf nb false
  | _, _ => .invalid

/-- The datum with the opposite sign. -/
def Datum.negate : Datum → Datum
  | .nan q => .nan q
  | .inf n => .inf !n
  | .fin n m e => .fin (!n) m e

/-- Multiplication: 0 * inf is invalid. -/
def mulData : Datum → Datum → Exact
  | .fin na ma ea, .fin nb mb eb => .num (na ^^ nb) (ma * mb) (ea + eb)
  | .inf na, .inf nb => .inf (na ^^ nb) false
  | .inf na, .fin nb mb _ => if mb = 0 then .invalid else .inf (na ^^ nb) false
  | .fin na ma _, .inf nb => if ma = 0 then .invalid else .inf (na ^^ nb) false
  | _, _ => .invalid

/-- A quotient or root cut off below, with a last bit that says whether anything was cut off. -/
def withSticky (q : Nat) (cut : Bool) : Nat := 2 * q + cut.toNat

/-- Division of nonzero m1 * 2^e1 by m2 * 2^e2, with at least two bits more than a format of precision p keeps. -/
def divNumbers (p : Nat) (neg : Bool) (ma : Nat) (ea : Int) (mb : Nat) (eb : Int) : Exact :=
  let k := p + 3 + mb.log2
  .num neg (withSticky (ma * 2 ^ k / mb) (ma * 2 ^ k % mb != 0)) (ea - eb - k - 1)

/-- Division: 0/0 and inf/inf are invalid, and a nonzero number over 0 is an infinity with dz. -/
def divData (p : Nat) : Datum → Datum → Exact
  | .fin na ma ea, .fin nb mb eb =>
    if mb = 0 then (if ma = 0 then .invalid else .inf (na ^^ nb) true)
    else if ma = 0 then .num (na ^^ nb) 0 0
    else divNumbers p (na ^^ nb) ma ea mb eb
  | .inf na, .fin nb _ _ => .inf (na ^^ nb) false
  | .fin na _ _, .inf nb => .num (na ^^ nb) 0 0
  | _, _ => .invalid

/-- The bits of an integer square root below 2^i, added to the bits found so far. -/
def rootBitsBelow (n : Nat) : Nat → Nat → Nat
  | 0, found => found
  | i + 1, found =>
    if (found + 2 ^ i) * (found + 2 ^ i) ≤ n then rootBitsBelow n i (found + 2 ^ i) else rootBitsBelow n i found

/-- The integer square root. -/
def integerRoot (n : Nat) : Nat := rootBitsBelow n (n.log2 / 2 + 1) 0

/-- The square root: of a negative nonzero number it is invalid, and of -0 it is -0. -/
def sqrtData (p : Nat) : Datum → Exact
  | .fin neg m e =>
    if m = 0 then .num neg 0 0
    else if neg then .invalid
    else
      let k := 2 * (p + 3) + (e % 2).toNat
      let root := integerRoot (m * 2 ^ k)
      .num false (withSticky root (root * root != m * 2 ^ k)) ((e - k) / 2 - 1)
  | .inf neg => if neg then .invalid else .inf false false
  | .nan _ => .invalid

/-- A conversion between the formats: the same number, to be rounded. -/
def convertData : Datum → Exact
  | .fin neg m e => .num neg m e
  | .inf neg => .inf neg false
  | .nan _ => .invalid

/-! ### The arithmetic FPops -/

/-- The format of the operands. -/
def operandFormat : FpOp → Format
  | .sqrtS | .addS | .subS | .mulS | .divS | .smuld | .stod | .stoi | .itos | .itod => binary32
  | .sqrtD | .addD | .subD | .mulD | .divD | .dtos | .dtoi => binary64

/-- The format of the result, for the operations whose result is a floating-point number. -/
def resultFormat : FpOp → Format
  | .sqrtS | .addS | .subS | .mulS | .divS | .itos | .dtos | .stoi | .dtoi => binary32
  | .sqrtD | .addD | .subD | .mulD | .divD | .smuld | .itod | .stod => binary64

/-- The NaN of an invalid operation that has no NaN operand (R903). -/
def defaultNan (f : Format) : BitVec 64 := f.signed false (2 ^ (f.expBits + f.fracBits) - 1)

/-- A NaN operand quieted, in the format of the result. Where the format changes, the sign and the quiet bit are those
of the quieted operand and the other fraction bits are free values (DEDUCED, log 6). -/
def quietNan (op : FpOp) (n : BitVec 64) : BitVec 64 :=
  if (operandFormat op) = (resultFormat op) then n ||| BitVec.ofNat 64 (2 ^ ((resultFormat op).fracBits - 1))
  else if (resultFormat op) = binary64 then
    BitVec.ofBool (n.getLsbD 31) ++ 0x7FF#11 ++ 1#1 ++ Config.nanPayloadD (n.extractLsb' 0 32)
  else (BitVec.ofBool n.msb ++ 0xFF#8 ++ 1#1 ++ Config.nanPayloadS n).zeroExtend 64

/-- The NaN result of an operation, by the parameter FP_NAN, from the NaN that SPARC V8's rule gives (R903). -/
def nanResult (rule : FpNanRule) (op : FpOp) (a b v8 : BitVec 64) : BitVec 64 :=
  match rule with
  | .sparcV8 => v8
  | .other k => Config.nanOther k op a b

/-- The exact result of the operations that give a floating-point number, on operands that are not NaN. -/
def exactResult (op : FpOp) (rd : BitVec 2) (x y : Datum) : Exact :=
  match op with
  | .addS | .addD => addData rd x y
  | .subS | .subD => addData rd x y.negate
  | .mulS | .mulD | .smuld => mulData x y
  | .divS | .divD => divData ((resultFormat op).fracBits + 1) x y
  | .sqrtS | .sqrtD => sqrtData ((resultFormat op).fracBits + 1) y
  | .dtos | .stod | .itos | .itod | .stoi | .dtoi => convertData y

/-- An exact result delivered in the format of the result. -/
def deliver (rule : FpNanRule) (op : FpOp) (a b : BitVec 64) (rd : BitVec 2) : Exact → BitVec 64 × BitVec 5
  | .invalid => (nanResult rule op a b (defaultNan (resultFormat op)), excNv)
  | .inf neg dz => ((resultFormat op).signed neg (resultFormat op).infBits, excSet false false false dz false)
  | .num neg m e => (resultFormat op).round rd neg m e

/-- An operation from floating-point operands to a floating-point result. The NaN of rs2 goes before that of rs1, and a
signaling NaN operand sets nv (R903). -/
def fpArith (rule : FpNanRule) (op : FpOp) (a b : BitVec 64) (rd : BitVec 2) : BitVec 64 × BitVec 5 :=
  match (operandFormat op).unpack a, (operandFormat op).unpack b with
  | .nan qa, .nan qb => (nanResult rule op a b (quietNan op b), if qa || qb then excNv else 0)
  | _, .nan qb => (nanResult rule op a b (quietNan op b), if qb then excNv else 0)
  | .nan qa, _ => (nanResult rule op a b (quietNan op a), if qa then excNv else 0)
  | x, y => deliver rule op a b rd (exactResult op rd x y)

/-- A conversion from a 32-bit integer. -/
def fromInteger (op : FpOp) (b : BitVec 64) (rd : BitVec 2) : BitVec 64 × BitVec 5 :=
  let n := (b.extractLsb' 0 32).toInt
  (resultFormat op).round rd (decide (n < 0)) n.natAbs 0

/-- A conversion to a 32-bit integer, which always rounds toward zero; a NaN, an infinity or a number out of range
gives nv (R903). -/
def toInteger (op : FpOp) (b : BitVec 64) : BitVec 64 × BitVec 5 :=
  match (operandFormat op).unpack b with
  | .nan _ => (0x7FFFFFFF, excNv)
  | .inf neg => (if neg then 0x80000000 else 0x7FFFFFFF, excNv)
  | .fin neg m e =>
    let (q, inexact) := roundAt 1 neg m e 0
    if (if neg then 2 ^ 31 < q else 2 ^ 31 ≤ q) then (if neg then 0x80000000 else 0x7FFFFFFF, excNv)
    else ((BitVec.ofInt 32 (signedInt neg q)).zeroExtend 64, excSet false false false false inexact)

/-- The reference configuration of FPU_ARITH with ns ignored (R903). An operation of one operand takes it in b. -/
def fpReference (rule : FpNanRule) (op : FpOp) (a b : BitVec 64) (rd : BitVec 2) : BitVec 64 × BitVec 5 :=
  match op with
  | .itos | .itod => fromInteger op b rd
  | .stoi | .dtoi => toInteger op b
  | _ => fpArith rule op a b rd

/-- `FPU_ARITH` under the parameters FPU_ARITH, FP_NAN and FP_NS (R903): the result and the exceptions. -/
def fpuCompute (c : Config) (op : FpOp) (a b : BitVec 64) (rd : BitVec 2) (ns : Bool) : BitVec 64 × BitVec 5 :=
  match c.fpuArith, c.fpNs with
  | .other k, _ => Config.fpuOther k op a b rd ns
  | .ieee754, .other k => if ns then Config.nsOther k op a b rd else fpReference c.fpNan op a b rd
  | .ieee754, .ignored => fpReference c.fpNan op a b rd

end Sys2Proof.Machine
end

