-- ==== Sys2Proof/Machine/FloatOps.lean ====
section
/-! DEFINITION. The floating-point operate instructions (45_floating_point R910 to R933) and the unimplemented FPops
(R901). The steps are those of R902: odd double registers, the FPU enable, the computation, the trap, the result. -/

namespace Sys2Proof.Machine

/-- Steps 4 and 5 of the FPop sequence (R902): with an enabled exception the FSR gets cexc and ftt = 1 and fp_exception
is raised; otherwise `written`, the state with the result in place, gets cexc, aexc and ftt = 0. -/
def fpComplete (exc : BitVec 5) (written : State) (s : State) : Result :=
  if exc &&& Fsr.tem s.fsr ≠ 0 then raise .fpException (s.setFsr (Fsr.ieeeTrap s.fsr exc))
  else .next (written.setFsr (Fsr.complete written.fsr exc)).advance

/-- f[r] as an operand of FPU_ARITH. -/
def State.single (s : State) (r : Reg) : BitVec 64 := (s.fr r).zeroExtend 64

/-- Step 3 of the FPop sequence: the rounding direction and ns are those of the FSR (R902). -/
def State.compute (s : State) (op : FpOp) (a b : BitVec 64) : BitVec 64 × BitVec 5 :=
  fpuCompute s.cfg op a b (Fsr.rd s.fsr) (Fsr.ns s.fsr)

/-- An arithmetic FPop with a result in f[rd]. -/
def fpSingle (op : FpOp) (rd : Reg) (a b : BitVec 64) (s : State) : Result :=
  fpComplete (s.compute op a b).2 (s.setF rd ((s.compute op a b).1.extractLsb' 0 32)) s

/-- An arithmetic FPop with a result in fd[rd]. -/
def fpDouble (op : FpOp) (rd : Reg) (a b : BitVec 64) (s : State) : Result :=
  fpComplete (s.compute op a b).2 (s.setFd rd (s.compute op a b).1) s

/-- A compare: the result is fsr.fcc (R940). -/
def fpCompare (r : BitVec 2 × BitVec 5) (s : State) : Result :=
  fpComplete r.2 (s.setFsr (Fsr.setFcc s.fsr r.1)) s

/-- An unimplemented FPop: ftt = 3 and fp_exception (R901). -/
def unimplementedFPop (s : State) : Result :=
  fpEnabled s (raise .fpException (s.setFsr (Fsr.unimplementedTrap s.fsr)))

/-! ### FPop1 -/

/-- FMOVs (45_floating_point R910). -/
def execFmovs (rd rs2 : Reg) (s : State) : Result :=
  fpEnabled s (fpComplete 0 (s.setF rd (s.fr rs2)) s)

/-- FNEGs (45_floating_point R911). -/
def execFnegs (rd rs2 : Reg) (s : State) : Result :=
  fpEnabled s (fpComplete 0 (s.setF rd (s.fr rs2 ^^^ 0x80000000)) s)

/-- FABSs (45_floating_point R912). -/
def execFabss (rd rs2 : Reg) (s : State) : Result :=
  fpEnabled s (fpComplete 0 (s.setF rd (s.fr rs2 &&& 0x7FFFFFFF)) s)

/-- FSQRTs (45_floating_point R913). -/
def execFsqrts (rd rs2 : Reg) (s : State) : Result :=
  fpEnabled s (fpSingle .sqrtS rd 0 (s.single rs2) s)

/-- FSQRTd (45_floating_point R914). -/
def execFsqrtd (rd rs2 : Reg) (s : State) : Result :=
  evenPair rs2 s <| evenPair rd s <| fpEnabled s (fpDouble .sqrtD rd 0 (s.fd rs2) s)

/-- FADDs (45_floating_point R915). -/
def execFadds (rd rs1 rs2 : Reg) (s : State) : Result :=
  fpEnabled s (fpSingle .addS rd (s.single rs1) (s.single rs2) s)

/-- FADDd (45_floating_point R916). -/
def execFaddd (rd rs1 rs2 : Reg) (s : State) : Result :=
  evenPair rs1 s <| evenPair rs2 s <| evenPair rd s <|
    fpEnabled s (fpDouble .addD rd (s.fd rs1) (s.fd rs2) s)

/-- FSUBs (45_floating_point R917). -/
def execFsubs (rd rs1 rs2 : Reg) (s : State) : Result :=
  fpEnabled s (fpSingle .subS rd (s.single rs1) (s.single rs2) s)

/-- FSUBd (45_floating_point R918). -/
def execFsubd (rd rs1 rs2 : Reg) (s : State) : Result :=
  evenPair rs1 s <| evenPair rs2 s <| evenPair rd s <|
    fpEnabled s (fpDouble .subD rd (s.fd rs1) (s.fd rs2) s)

/-- FMULs (45_floating_point R919). -/
def execFmuls (rd rs1 rs2 : Reg) (s : State) : Result :=
  fpEnabled s (fpSingle .mulS rd (s.single rs1) (s.single rs2) s)

/-- FMULd (45_floating_point R920). -/
def execFmuld (rd rs1 rs2 : Reg) (s : State) : Result :=
  evenPair rs1 s <| evenPair rs2 s <| evenPair rd s <|
    fpEnabled s (fpDouble .mulD rd (s.fd rs1) (s.fd rs2) s)

/-- FDIVs (45_floating_point R921). -/
def execFdivs (rd rs1 rs2 : Reg) (s : State) : Result :=
  fpEnabled s (fpSingle .divS rd (s.single rs1) (s.single rs2) s)

/-- FDIVd (45_floating_point R922). -/
def execFdivd (rd rs1 rs2 : Reg) (s : State) : Result :=
  evenPair rs1 s <| evenPair rs2 s <| evenPair rd s <|
    fpEnabled s (fpDouble .divD rd (s.fd rs1) (s.fd rs2) s)

/-- FsMULd (45_floating_point R923). -/
def execFsmuld (rd rs1 rs2 : Reg) (s : State) : Result :=
  evenPair rd s <| fpEnabled s (fpDouble .smuld rd (s.single rs1) (s.single rs2) s)

/-- FiTOs (45_floating_point R924). -/
def execFitos (rd rs2 : Reg) (s : State) : Result :=
  fpEnabled s (fpSingle .itos rd 0 (s.single rs2) s)

/-- FdTOs (45_floating_point R925). -/
def execFdtos (rd rs2 : Reg) (s : State) : Result :=
  evenPair rs2 s <| fpEnabled s (fpSingle .dtos rd 0 (s.fd rs2) s)

/-- FiTOd (45_floating_point R926). -/
def execFitod (rd rs2 : Reg) (s : State) : Result :=
  evenPair rd s <| fpEnabled s (fpDouble .itod rd 0 (s.single rs2) s)

/-- FsTOd (45_floating_point R927). -/
def execFstod (rd rs2 : Reg) (s : State) : Result :=
  evenPair rd s <| fpEnabled s (fpDouble .stod rd 0 (s.single rs2) s)

/-- FsTOi (45_floating_point R928). -/
def execFstoi (rd rs2 : Reg) (s : State) : Result :=
  fpEnabled s (fpSingle .stoi rd 0 (s.single rs2) s)

/-- FdTOi (45_floating_point R929). -/
def execFdtoi (rd rs2 : Reg) (s : State) : Result :=
  evenPair rs2 s <| fpEnabled s (fpSingle .dtoi rd 0 (s.fd rs2) s)

/-! ### FPop2 -/

/-- FCMPs (45_floating_point R930). -/
def execFcmps (rs1 rs2 : Reg) (s : State) : Result :=
  fpEnabled s (fpCompare (fcompareS (s.fr rs1) (s.fr rs2) false) s)

/-- FCMPd (45_floating_point R931). -/
def execFcmpd (rs1 rs2 : Reg) (s : State) : Result :=
  evenPair rs1 s <| evenPair rs2 s <| fpEnabled s (fpCompare (fcompareD (s.fd rs1) (s.fd rs2) false) s)

/-- FCMPEs (45_floating_point R932). -/
def execFcmpes (rs1 rs2 : Reg) (s : State) : Result :=
  fpEnabled s (fpCompare (fcompareS (s.fr rs1) (s.fr rs2) true) s)

/-- FCMPEd (45_floating_point R933). -/
def execFcmped (rs1 rs2 : Reg) (s : State) : Result :=
  evenPair rs1 s <| evenPair rs2 s <| fpEnabled s (fpCompare (fcompareD (s.fd rs1) (s.fd rs2) true) s)

/-! ### The catch-all rows -/

/-- FPOP1_UNIMPLEMENTED (45_floating_point R901). -/
def execFpop1Unimplemented (_rd _rs1 : Reg) (_opf : BitVec 9) (_rs2 : Reg) (s : State) : Result :=
  unimplementedFPop s

/-- FPOP2_UNIMPLEMENTED (45_floating_point R901). -/
def execFpop2Unimplemented (_rd _rs1 : Reg) (_opf : BitVec 9) (_rs2 : Reg) (s : State) : Result :=
  unimplementedFPop s

end Sys2Proof.Machine
end

