-- ==== Sys2Proof/Machine/Integer.lean ====
section
/-! DEFINITION. The integer instructions: add, subtract, logic, shift, SETHI, NOP, tagged, multiply and divide
(41_integer_arithmetic R510 to R564). -/

namespace Sys2Proof.Machine

/-! ### Shared forms -/

/-- An instruction that writes x[rd] and no flag. -/
def aluResult (rd : Reg) (v : Word) (s : State) : Result := .next (s.setX rd v).advance

/-- An instruction that writes x[rd] and icc; icc is written even when rd = 0 (R504). -/
def aluCcResult (rd : Reg) (v : Word) (i : Icc) (s : State) : Result := .next ((s.setX rd v).setIcc i).advance

/-- psr.icc.c, the carry of the extended operations. -/
def State.carry (s : State) : Bool := (Psr.icc s.psr).c

/-- A tagged operation that traps: tag_overflow when its tag overflow is set, and otherwise the result with v = 0
(R546, R548). -/
def taggedTrapResult (rd : Reg) (v : Word) (i : Icc) (overflow : Bool) (s : State) : Result :=
  if overflow then raise .tagOverflow s else aluCcResult rd v { i with v := false } s

/-- The 64-bit product of zero-extended operands (R555). -/
def unsignedProduct (a b : Word) : BitVec 64 := a.zeroExtend 64 * b.zeroExtend 64

/-- The 64-bit product of sign-extended operands (R556). -/
def signedProduct (a b : Word) : BitVec 64 := a.signExtend 64 * b.signExtend 64

/-- The low word of a product: x[rd]. -/
def productLow (p : BitVec 64) : Word := p.extractLsb' 0 32

/-- The high word of a product: y. -/
def productHigh (p : BitVec 64) : Word := p.extractLsb' 32 32

/-- A multiply: y and x[rd] (R555). -/
def mulResult (rd : Reg) (p : BitVec 64) (s : State) : Result :=
  .next ((s.setX rd (productLow p)).setY (productHigh p)).advance

/-- A multiply that also writes icc (R557). -/
def mulCcResult (rd : Reg) (p : BitVec 64) (s : State) : Result :=
  .next (((s.setX rd (productLow p)).setY (productHigh p)).setIcc (logicIcc (productLow p))).advance

/-- `udiv(y, a, b)`: the quotient, clamped, and the overflow flag (R560). -/
def unsignedQuotient (y a b : Word) : Word × Bool :=
  let q := (y ++ a).toNat / b.toNat
  if 2 ^ 32 - 1 < q then (0xFFFFFFFF, true) else (BitVec.ofNat 32 q, false)

/-- `sdiv(y, a, b)`: the quotient rounded toward zero, clamped, and the overflow flag (R560). -/
def signedQuotient (y a b : Word) : Word × Bool :=
  let q := (y ++ a).toInt.tdiv b.toInt
  if 2 ^ 31 - 1 < q then (0x7FFFFFFF, true)
  else if q < -2 ^ 31 then (0x80000000, true)
  else (BitVec.ofInt 32 q, false)

/-- The icc of a divide: n and z of the quotient, v the overflow, c = 0 (R563). -/
def divIcc (q : Word × Bool) : Icc := iccOf q.1 q.2 false

/-- A divide: division_by_zero before any write, or x[rd] (R561). -/
def divResult (rd : Reg) (divisor : Word) (q : Word × Bool) (s : State) : Result :=
  if divisor = 0 then raise .divisionByZero s else aluResult rd q.1 s

/-- A divide that also writes icc (R563). -/
def divCcResult (rd : Reg) (divisor : Word) (q : Word × Bool) (s : State) : Result :=
  if divisor = 0 then raise .divisionByZero s else aluCcResult rd q.1 (divIcc q) s

/-! ### Add and subtract -/

/-- ADD (41_integer_arithmetic R510). -/
def execAdd (rd rs1 : Reg) (op2 : Op2) (s : State) : Result :=
  aluResult rd (s.x rs1 + s.operand op2) s

/-- ADDcc (41_integer_arithmetic R511). -/
def execAddcc (rd rs1 : Reg) (op2 : Op2) (s : State) : Result :=
  aluCcResult rd (addValue (s.x rs1) (s.operand op2) false) (addIcc (s.x rs1) (s.operand op2) false) s

/-- ADDX (41_integer_arithmetic R512). -/
def execAddx (rd rs1 : Reg) (op2 : Op2) (s : State) : Result :=
  aluResult rd (addValue (s.x rs1) (s.operand op2) s.carry) s

/-- ADDXcc (41_integer_arithmetic R513). -/
def execAddxcc (rd rs1 : Reg) (op2 : Op2) (s : State) : Result :=
  aluCcResult rd (addValue (s.x rs1) (s.operand op2) s.carry) (addIcc (s.x rs1) (s.operand op2) s.carry) s

/-- SUB (41_integer_arithmetic R514). -/
def execSub (rd rs1 : Reg) (op2 : Op2) (s : State) : Result :=
  aluResult rd (s.x rs1 - s.operand op2) s

/-- SUBcc (41_integer_arithmetic R515). -/
def execSubcc (rd rs1 : Reg) (op2 : Op2) (s : State) : Result :=
  aluCcResult rd (subValue (s.x rs1) (s.operand op2) false) (subIcc (s.x rs1) (s.operand op2) false) s

/-- SUBX (41_integer_arithmetic R516). -/
def execSubx (rd rs1 : Reg) (op2 : Op2) (s : State) : Result :=
  aluResult rd (subValue (s.x rs1) (s.operand op2) s.carry) s

/-- SUBXcc (41_integer_arithmetic R517). -/
def execSubxcc (rd rs1 : Reg) (op2 : Op2) (s : State) : Result :=
  aluCcResult rd (subValue (s.x rs1) (s.operand op2) s.carry) (subIcc (s.x rs1) (s.operand op2) s.carry) s

/-! ### Logic -/

/-- AND (41_integer_arithmetic R520). -/
def execAnd (rd rs1 : Reg) (op2 : Op2) (s : State) : Result :=
  aluResult rd (s.x rs1 &&& s.operand op2) s

/-- ANDcc (41_integer_arithmetic R521). -/
def execAndcc (rd rs1 : Reg) (op2 : Op2) (s : State) : Result :=
  aluCcResult rd (s.x rs1 &&& s.operand op2) (logicIcc (s.x rs1 &&& s.operand op2)) s

/-- ANDN (41_integer_arithmetic R522). -/
def execAndn (rd rs1 : Reg) (op2 : Op2) (s : State) : Result :=
  aluResult rd (s.x rs1 &&& ~~~s.operand op2) s

/-- ANDNcc (41_integer_arithmetic R523). -/
def execAndncc (rd rs1 : Reg) (op2 : Op2) (s : State) : Result :=
  aluCcResult rd (s.x rs1 &&& ~~~s.operand op2) (logicIcc (s.x rs1 &&& ~~~s.operand op2)) s

/-- OR (41_integer_arithmetic R524). -/
def execOr (rd rs1 : Reg) (op2 : Op2) (s : State) : Result :=
  aluResult rd (s.x rs1 ||| s.operand op2) s

/-- ORcc (41_integer_arithmetic R525). -/
def execOrcc (rd rs1 : Reg) (op2 : Op2) (s : State) : Result :=
  aluCcResult rd (s.x rs1 ||| s.operand op2) (logicIcc (s.x rs1 ||| s.operand op2)) s

/-- ORN (41_integer_arithmetic R526). -/
def execOrn (rd rs1 : Reg) (op2 : Op2) (s : State) : Result :=
  aluResult rd (s.x rs1 ||| ~~~s.operand op2) s

/-- ORNcc (41_integer_arithmetic R527). -/
def execOrncc (rd rs1 : Reg) (op2 : Op2) (s : State) : Result :=
  aluCcResult rd (s.x rs1 ||| ~~~s.operand op2) (logicIcc (s.x rs1 ||| ~~~s.operand op2)) s

/-- XOR (41_integer_arithmetic R528). -/
def execXor (rd rs1 : Reg) (op2 : Op2) (s : State) : Result :=
  aluResult rd (s.x rs1 ^^^ s.operand op2) s

/-- XORcc (41_integer_arithmetic R529). -/
def execXorcc (rd rs1 : Reg) (op2 : Op2) (s : State) : Result :=
  aluCcResult rd (s.x rs1 ^^^ s.operand op2) (logicIcc (s.x rs1 ^^^ s.operand op2)) s

/-- XNOR (41_integer_arithmetic R530). -/
def execXnor (rd rs1 : Reg) (op2 : Op2) (s : State) : Result :=
  aluResult rd (~~~(s.x rs1 ^^^ s.operand op2)) s

/-- XNORcc (41_integer_arithmetic R531). -/
def execXnorcc (rd rs1 : Reg) (op2 : Op2) (s : State) : Result :=
  aluCcResult rd (~~~(s.x rs1 ^^^ s.operand op2)) (logicIcc (~~~(s.x rs1 ^^^ s.operand op2))) s

/-! ### Shifts, SETHI and NOP -/

/-- SLL (41_integer_arithmetic R535). -/
def execSll (rd rs1 : Reg) (op2 : Op2) (s : State) : Result :=
  aluResult rd (s.x rs1 <<< shiftCount (s.operand op2)) s

/-- SRL (41_integer_arithmetic R536). -/
def execSrl (rd rs1 : Reg) (op2 : Op2) (s : State) : Result :=
  aluResult rd (s.x rs1 >>> shiftCount (s.operand op2)) s

/-- SRA (41_integer_arithmetic R537). -/
def execSra (rd rs1 : Reg) (op2 : Op2) (s : State) : Result :=
  aluResult rd ((s.x rs1).sshiftRight (shiftCount (s.operand op2))) s

/-- SETHI (41_integer_arithmetic R540). -/
def execSethi (rd : Reg) (imm22 : BitVec 22) (s : State) : Result :=
  aluResult rd (sethiValue imm22) s

/-- NOP (41_integer_arithmetic R541). -/
def execNop (s : State) : Result := .next s.advance

/-! ### Tagged arithmetic -/

/-- TADDcc (41_integer_arithmetic R545). -/
def execTaddcc (rd rs1 : Reg) (op2 : Op2) (s : State) : Result :=
  aluCcResult rd (addValue (s.x rs1) (s.operand op2) false)
    (taggedIcc (addIcc (s.x rs1) (s.operand op2) false) (s.x rs1) (s.operand op2)) s

/-- TADDccTV (41_integer_arithmetic R546). -/
def execTaddcctv (rd rs1 : Reg) (op2 : Op2) (s : State) : Result :=
  taggedTrapResult rd (addValue (s.x rs1) (s.operand op2) false) (addIcc (s.x rs1) (s.operand op2) false)
    (tagOverflow (addIcc (s.x rs1) (s.operand op2) false) (s.x rs1) (s.operand op2)) s

/-- TSUBcc (41_integer_arithmetic R547). -/
def execTsubcc (rd rs1 : Reg) (op2 : Op2) (s : State) : Result :=
  aluCcResult rd (subValue (s.x rs1) (s.operand op2) false)
    (taggedIcc (subIcc (s.x rs1) (s.operand op2) false) (s.x rs1) (s.operand op2)) s

/-- TSUBccTV (41_integer_arithmetic R548). -/
def execTsubcctv (rd rs1 : Reg) (op2 : Op2) (s : State) : Result :=
  taggedTrapResult rd (subValue (s.x rs1) (s.operand op2) false) (subIcc (s.x rs1) (s.operand op2) false)
    (tagOverflow (subIcc (s.x rs1) (s.operand op2) false) (s.x rs1) (s.operand op2)) s

/-! ### Multiply and divide -/

/-- The first addend of MULScc: (psr.n ^ psr.v) ++ x[rs1][31:1] (R550). -/
def State.mulStepOperand (s : State) (rs1 : Reg) : Word :=
  BitVec.ofBool ((Psr.icc s.psr).n ^^ (Psr.icc s.psr).v) ++ (s.x rs1).extractLsb' 1 31

/-- The second addend of MULScc: op2 when y[0] = 1, and otherwise 0 (R550). -/
def State.mulStepAddend (s : State) (op2 : Op2) : Word := if s.y.getLsbD 0 then s.operand op2 else 0

/-- The y that MULScc writes: x[rs1][0] ++ y[31:1] (R550). -/
def State.mulStepY (s : State) (rs1 : Reg) : Word := (s.x rs1).extractLsb' 0 1 ++ s.y.extractLsb' 1 31

/-- MULScc; every read is of the state before the instruction (41_integer_arithmetic R550). -/
def execMulscc (rd rs1 : Reg) (op2 : Op2) (s : State) : Result :=
  .next (((s.setX rd (addValue (s.mulStepOperand rs1) (s.mulStepAddend op2) false)).setY (s.mulStepY rs1)).setIcc
    (addIcc (s.mulStepOperand rs1) (s.mulStepAddend op2) false)).advance

/-- UMUL (41_integer_arithmetic R555). -/
def execUmul (rd rs1 : Reg) (op2 : Op2) (s : State) : Result :=
  mulResult rd (unsignedProduct (s.x rs1) (s.operand op2)) s

/-- SMUL (41_integer_arithmetic R556). -/
def execSmul (rd rs1 : Reg) (op2 : Op2) (s : State) : Result :=
  mulResult rd (signedProduct (s.x rs1) (s.operand op2)) s

/-- UMULcc (41_integer_arithmetic R557). -/
def execUmulcc (rd rs1 : Reg) (op2 : Op2) (s : State) : Result :=
  mulCcResult rd (unsignedProduct (s.x rs1) (s.operand op2)) s

/-- SMULcc (41_integer_arithmetic R558). -/
def execSmulcc (rd rs1 : Reg) (op2 : Op2) (s : State) : Result :=
  mulCcResult rd (signedProduct (s.x rs1) (s.operand op2)) s

/-- UDIV (41_integer_arithmetic R561). -/
def execUdiv (rd rs1 : Reg) (op2 : Op2) (s : State) : Result :=
  divResult rd (s.operand op2) (unsignedQuotient s.y (s.x rs1) (s.operand op2)) s

/-- SDIV (41_integer_arithmetic R562). -/
def execSdiv (rd rs1 : Reg) (op2 : Op2) (s : State) : Result :=
  divResult rd (s.operand op2) (signedQuotient s.y (s.x rs1) (s.operand op2)) s

/-- UDIVcc (41_integer_arithmetic R563). -/
def execUdivcc (rd rs1 : Reg) (op2 : Op2) (s : State) : Result :=
  divCcResult rd (s.operand op2) (unsignedQuotient s.y (s.x rs1) (s.operand op2)) s

/-- SDIVcc (41_integer_arithmetic R564). -/
def execSdivcc (rd rs1 : Reg) (op2 : Op2) (s : State) : Result :=
  divCcResult rd (s.operand op2) (signedQuotient s.y (s.x rs1) (s.operand op2)) s

end Sys2Proof.Machine
end

