-- ==== Sys2Proof/Machine/LoadStore.lean ====
section
/-! DEFINITION. The loads, the stores, LDSTUB and SWAP, and the floating-point loads and stores (44_load_store R805 to
R826). Checks come in the order of R802: an odd register pair, the FPU enable, alignment, then memory. -/

namespace Sys2Proof.Machine

/-- A load into x[rd] of a value read from memory. -/
def loadResult (rd : Reg) (v : Word) (s : State) : Result := .next (s.setX rd v).advance

/-- A store that writes nothing but memory. -/
def store (a : Word) (bytes : List Byte) (s : State) : Result := storeThen a bytes id s

/-! ### Integer loads -/

/-- LDSB (44_load_store R805). -/
def execLdsb (rd rs1 : Reg) (op2 : Op2) (s : State) : Result :=
  loadResult rd ((s.mem.read1 (s.address rs1 op2)).signExtend 32) s

/-- LDSH (44_load_store R806). -/
def execLdsh (rd rs1 : Reg) (op2 : Op2) (s : State) : Result :=
  whenAligned (s.address rs1 op2) 2 s (loadResult rd ((s.mem.read2 (s.address rs1 op2)).signExtend 32) s)

/-- LDUB (44_load_store R807). -/
def execLdub (rd rs1 : Reg) (op2 : Op2) (s : State) : Result :=
  loadResult rd ((s.mem.read1 (s.address rs1 op2)).zeroExtend 32) s

/-- LDUH (44_load_store R808). -/
def execLduh (rd rs1 : Reg) (op2 : Op2) (s : State) : Result :=
  whenAligned (s.address rs1 op2) 2 s (loadResult rd ((s.mem.read2 (s.address rs1 op2)).zeroExtend 32) s)

/-- LD (44_load_store R809). -/
def execLd (rd rs1 : Reg) (op2 : Op2) (s : State) : Result :=
  whenAligned (s.address rs1 op2) 4 s (loadResult rd (s.mem.read4 (s.address rs1 op2)) s)

/-- LDD (44_load_store R810): the word at ea goes to the even register. -/
def execLdd (rd rs1 : Reg) (op2 : Op2) (s : State) : Result :=
  evenPair rd s <|
    whenAligned (s.address rs1 op2) 8 s <|
      .next ((s.setX rd (s.mem.read4 (s.address rs1 op2))).setX (rd + 1)
        (s.mem.read4 (s.address rs1 op2 + 4))).advance

/-! ### Integer stores -/

/-- STB (44_load_store R811). -/
def execStb (rd rs1 : Reg) (op2 : Op2) (s : State) : Result :=
  store (s.address rs1 op2) [(s.x rd).extractLsb' 0 8] s

/-- STH (44_load_store R812). -/
def execSth (rd rs1 : Reg) (op2 : Op2) (s : State) : Result :=
  whenAligned (s.address rs1 op2) 2 s
    (store (s.address rs1 op2) (bytesOfHalf ((s.x rd).extractLsb' 0 16)) s)

/-- ST (44_load_store R813). -/
def execSt (rd rs1 : Reg) (op2 : Op2) (s : State) : Result :=
  whenAligned (s.address rs1 op2) 4 s (store (s.address rs1 op2) (bytesOfWord (s.x rd)) s)

/-- STD (44_load_store R814): the even register goes to the word at ea. -/
def execStd (rd rs1 : Reg) (op2 : Op2) (s : State) : Result :=
  evenPair rd s <|
    whenAligned (s.address rs1 op2) 8 s
      (store (s.address rs1 op2) (bytesOfDouble (s.x rd ++ s.x (rd + 1))) s)

/-! ### Atomic load-store -/

/-- LDSTUB (44_load_store R815): x[rd] is not written when the store cannot allocate. -/
def execLdstub (rd rs1 : Reg) (op2 : Op2) (s : State) : Result :=
  storeThen (s.address rs1 op2) [0xFF]
    (fun t => t.setX rd ((s.mem.read1 (s.address rs1 op2)).zeroExtend 32)) s

/-- SWAP (44_load_store R816): the old x[rd] goes to memory. -/
def execSwap (rd rs1 : Reg) (op2 : Op2) (s : State) : Result :=
  whenAligned (s.address rs1 op2) 4 s <|
    storeThen (s.address rs1 op2) (bytesOfWord (s.x rd))
      (fun t => t.setX rd (s.mem.read4 (s.address rs1 op2))) s

/-! ### Floating-point loads and stores -/

/-- LDF (44_load_store R821). -/
def execLdf (rd rs1 : Reg) (op2 : Op2) (s : State) : Result :=
  fpEnabled s <|
    whenAligned (s.address rs1 op2) 4 s (.next (s.setF rd (s.mem.read4 (s.address rs1 op2))).advance)

/-- LDDF (44_load_store R822). -/
def execLddf (rd rs1 : Reg) (op2 : Op2) (s : State) : Result :=
  evenPair rd s <|
    fpEnabled s <|
      whenAligned (s.address rs1 op2) 8 s (.next (s.setFd rd (s.mem.read8 (s.address rs1 op2))).advance)

/-- LDFSR (44_load_store R823): ver, ftt and qne keep their values. -/
def execLdfsr (rs1 : Reg) (op2 : Op2) (s : State) : Result :=
  fpEnabled s <|
    whenAligned (s.address rs1 op2) 4 s
      (.next (s.setFsr (Fsr.load s.fsr (s.mem.read4 (s.address rs1 op2)))).advance)

/-- STF (44_load_store R824). -/
def execStf (rd rs1 : Reg) (op2 : Op2) (s : State) : Result :=
  fpEnabled s <|
    whenAligned (s.address rs1 op2) 4 s (store (s.address rs1 op2) (bytesOfWord (s.fr rd)) s)

/-- STDF (44_load_store R825). -/
def execStdf (rd rs1 : Reg) (op2 : Op2) (s : State) : Result :=
  evenPair rd s <|
    fpEnabled s <|
      whenAligned (s.address rs1 op2) 8 s (store (s.address rs1 op2) (bytesOfDouble (s.fd rd)) s)

/-- STFSR (44_load_store R826): all 32 bits are stored. -/
def execStfsr (rs1 : Reg) (op2 : Op2) (s : State) : Result :=
  fpEnabled s <|
    whenAligned (s.address rs1 op2) 4 s (store (s.address rs1 op2) (bytesOfWord s.fsr) s)

end Sys2Proof.Machine
end

