-- ==== Sys2Proof/Machine/WindowState.lean ====
section
/-! DEFINITION. SAVE and RESTORE (43_window_and_state R700, R701), the state-register reads and writes (R710 to R723),
STBAR and FLUSH (R730, R731). -/

namespace Sys2Proof.Machine

/-- The end of SAVE and RESTORE: the sum is read in the old window and written in the new one. -/
def moveWindow (new : BitVec 5) (rd rs1 : Reg) (op2 : Op2) (s : State) : Result :=
  .next ((s.setCwp new).setX rd (s.address rs1 op2)).advance

/-- SAVE (43_window_and_state R700). -/
def execSave (rd rs1 : Reg) (op2 : Op2) (s : State) : Result :=
  if s.windowInvalid s.previousWindow then raise .windowOverflow s
  else moveWindow s.previousWindow rd rs1 op2 s

/-- RESTORE (43_window_and_state R701). -/
def execRestore (rd rs1 : Reg) (op2 : Op2) (s : State) : Result :=
  if s.windowInvalid s.followingWindow then raise .windowUnderflow s
  else moveWindow s.followingWindow rd rs1 op2 s

/-! ### Reading state registers -/

/-- RDY (43_window_and_state R710), which is not privileged. -/
def execRdy (rd : Reg) (s : State) : Result := .next (s.setX rd s.y).advance

/-- RDPSR (43_window_and_state R711). -/
def execRdpsr (rd : Reg) (s : State) : Result := privileged s (.next (s.setX rd s.psr).advance)

/-- RDWIM (43_window_and_state R712). -/
def execRdwim (rd : Reg) (s : State) : Result := privileged s (.next (s.setX rd s.wim).advance)

/-- RDTBR (43_window_and_state R713). -/
def execRdtbr (rd : Reg) (s : State) : Result := privileged s (.next (s.setX rd s.tbr).advance)

/-! ### Writing state registers (R702: the exclusive or of the operands) -/

/-- The bits of WIM that stand for a window: 2^NWINDOWS - 1 (43_window_and_state R722). -/
def windowMask (nw : Nat) : Word := BitVec.ofNat 32 (2 ^ nw - 1)

/-- WRY (43_window_and_state R720), which is not privileged. -/
def execWry (rs1 : Reg) (op2 : Op2) (s : State) : Result := .next (s.setY (s.writeValue rs1 op2)).advance

/-- WRPSR (43_window_and_state R721): a cwp of NWINDOWS or more is illegal. -/
def execWrpsr (rs1 : Reg) (op2 : Op2) (s : State) : Result :=
  privileged s <|
    if s.cfg.nwindows ≤ (Psr.cwp (s.writeValue rs1 op2)).toNat then illegal s
    else .next { s with psr := Psr.write s.psr (s.writeValue rs1 op2) }.advance

/-- WRWIM (43_window_and_state R722): the bits at or above NWINDOWS become 0. -/
def execWrwim (rs1 : Reg) (op2 : Op2) (s : State) : Result :=
  privileged s (.next { s with wim := s.writeValue rs1 op2 &&& windowMask s.cfg.nwindows }.advance)

/-- WRTBR (43_window_and_state R723): tt and the low four bits keep their values. -/
def execWrtbr (rs1 : Reg) (op2 : Op2) (s : State) : Result :=
  privileged s (.next { s with tbr := Tbr.setTba s.tbr (s.writeValue rs1 op2) }.advance)

/-! ### Barrier and flush -/

/-- STBAR (43_window_and_state R730) orders nothing: every store is complete when its step ends. -/
def execStbar (s : State) : Result := .next s.advance

/-- FLUSH (43_window_and_state R731): the address is not used and no check is made. -/
def execFlush (_rs1 : Reg) (_op2 : Op2) (s : State) : Result := .next s.advance

end Sys2Proof.Machine
end

