-- ==== Sys2Proof/Machine/Breakpoints.lean ====
section
/-! DEFINITION. The BreakpointTable: its matching (60_exceptions R1044 to R1046) and the host's add, delete and iterate
(R1041 to R1043). -/

namespace Sys2Proof.Machine

/-- The first entry of a kind at an address. -/
def BreakpointTable.match? (t : BreakpointTable) (a : Word) (kind : BreakKind) : Option BreakEntry :=
  t.entries.find? fun e => e.kind == kind && e.addr == a

/-- `matchExecution(a)` (60_exceptions R1044). -/
def BreakpointTable.matchExecution (t : BreakpointTable) (a : Word) : Option BreakEntry := t.match? a .execution

/-- `matchData(a)` (60_exceptions R1045). -/
def BreakpointTable.matchData (t : BreakpointTable) (a : Word) : Option BreakEntry := t.match? a .data

/-- The aligned words a data write touches, in ascending order (60_exceptions R1046). -/
def DataWrite.words (d : DataWrite) : List Word :=
  if d.bytes.length ≤ 4 then [alignWord d.addr] else [d.addr, d.addr + 4]

/-- The first watched word of a list, with the entry that watches it. -/
def firstWatched (t : BreakpointTable) : List Word → Option (BreakEntry × Word)
  | [] => none
  | a :: rest =>
    match t.matchData a with
    | some e => some (e, a)
    | none => firstWatched t rest

/-- `watchHit(W)` (60_exceptions R1046): the serial, the watched word's address, and that word before and after. -/
def watchHit (t : BreakpointTable) (before after : Memory) (ws : List DataWrite) : Option Report :=
  (firstWatched t (ws.flatMap DataWrite.words)).map fun (e, a) =>
    .watchpoint e.serial a (before.read4 a) (after.read4 a)

/-- Why the host's request on the table fails (60_exceptions R1041, R1042). -/
inductive BreakError
  | duplicate (serial : Nat)
  | capacity
  | notFound
  deriving DecidableEq, Repr

/-- `add(addr, kind)` (60_exceptions R1041): the duplicate check comes before the capacity check. -/
def BreakpointTable.add (capacity : Nat) (t : BreakpointTable) (addr : Word) (kind : BreakKind) :
    Except BreakError (Nat × BreakpointTable) :=
  match t.match? (alignWord addr) kind with
  | some e => .error (.duplicate e.serial)
  | none =>
    if t.entries.length = capacity then .error .capacity
    else .ok (t.nextSerial, ⟨t.entries ++ [⟨t.nextSerial, alignWord addr, kind⟩], t.nextSerial + 1⟩)

/-- `delete(serial)` (60_exceptions R1042): next_serial is unchanged. -/
def BreakpointTable.delete (t : BreakpointTable) (serial : Nat) : Except BreakError BreakpointTable :=
  if t.entries.any (fun e => e.serial == serial) then
    .ok { t with entries := t.entries.filter fun e => e.serial != serial }
  else .error .notFound

/-- `iterate()` (60_exceptions R1043): a snapshot of the entries in order. -/
def BreakpointTable.iterate (t : BreakpointTable) : List BreakEntry := t.entries

/-- The invariants of the table (60_exceptions R1040). -/
abbrev BreakpointTable.wf (capacity : Nat) (t : BreakpointTable) : Prop :=
  t.entries.length ≤ capacity ∧
    t.entries.Pairwise (fun a b => a.serial < b.serial ∧ ¬(a.addr = b.addr ∧ a.kind = b.kind)) ∧
    ∀ e ∈ t.entries, e.serial < t.nextSerial ∧ alignWord e.addr = e.addr

end Sys2Proof.Machine
end

