-- ==== Sys2Proof/Machine/Engine.lean ====
section
/-! DEFINITION. The stages of a step around the execute stage (40_execution_engine R402): the gates, decode with the
parameter IMPLEMENTED (R412), the pre-check (R415), the post-check (R430) and the last-step record (R440). -/

namespace Sys2Proof.Machine

/-- The row of an instruction is in `IMPLEMENTED` (00_scope R7). The word of NOP also matches the SETHI row
(30_encoding R325), so either row admits it (DEDUCED, log 12). -/
def admitted (c : Config) (i : Instr) : Bool :=
  !c.notImplemented.contains i.mnemonic || (i == .nop && !c.notImplemented.contains "SETHI")

/-- UNIMP, which has a row and is classed as unrecognised (30_encoding R331). -/
def isUnimp : Instr → Bool
  | .unimp _ => true
  | _ => false

/-- The decode stage (40_execution_engine R411, R412): none is `unrecognised`. -/
def decodeStage (c : Config) (w : Word) : Option Instr :=
  match decodeBytes (bytesOfWord w) with
  | .ok i => if admitted c i && !isUnimp i then some i else none
  | .error _ => none

/-- The gates of a step and its stages up to the execute stage (40_execution_engine R402): the instruction to execute,
or the outcome that ends the step with no state change. -/
def frontEnd (s : State) : Except Fault Instr :=
  if s.errorMode then .error (.errorMode (Tbr.tt s.tbr))
  else if s.cfg.nwindows ≤ s.window then .error (.invalidWindow (Psr.cwp s.psr))
  else
    match decodeStage s.cfg s.fetchWord with
    | none => .error (.illegalInstruction s.fetchAddr s.fetchWord)
    | some i =>
      match s.bps.matchExecution s.fetchAddr with
      | some e => .error (.breakpoint e.serial)
      | none => .ok i

/-- The stages of a step after the execute stage (40_execution_engine R402, R430, R440): `s` is the state before the
step and `t` the state the instruction gave. On the step that enters error mode the record is not written. -/
def finish (s t : State) : State :=
  match t.report with
  | .continued _ =>
    { t with
      last := ⟨true, s.fetchAddr, s.fetchWord⟩
      report := (watchHit t.bps s.mem t.mem t.writes).getD t.report }
  | _ => t

/-- The step around a meaning of the instructions. -/
def stepWith (run : Instr → State → Result) (s : State) : Result :=
  match frontEnd s with
  | .error f => .fault f
  | .ok i =>
    match run i s with
    | .next t => .next (finish s t)
    | .fault f => .fault f
    | .refused r => .refused r

/-- A fault as the outcome it stands for (40_execution_engine R401). -/
def Fault.report : Fault → Report
  | .illegalInstruction a w => .illegalInstruction a w
  | .breakpoint n => .breakpoint n
  | .allocationFailed l => .allocationFailed l
  | .invalidWindow c => .invalidWindow c
  | .errorMode t => .errorMode t

/-- Whether an outcome is `Continue(_)` (40_execution_engine R450). -/
def Report.isContinue : Report → Bool
  | .continued _ => true
  | _ => false

/-- The memory with a word stored at an address and its page allocated, whatever the capacities. -/
def Memory.placeWord (c : Config) (m : Memory) (a w : Word) : Memory := (m.addPage c a).storeBytes a (bytesOfWord w)

end Sys2Proof.Machine
end

