-- ==== Sys2Proof/Machine/Step.lean ====
section
/-! DEFINITION. `step()` (40_execution_engine R402), and where the next step fetches its instruction. -/

namespace Sys2Proof.Machine

/-- One transition of the core (40_execution_engine R402). -/
def step (s : State) : Host.Outcome State Fault Refusal := stepWith exec s

/-- The state with an instruction's bits stored at the address the next step fetches from (40_execution_engine R410),
its page allocated. -/
def State.withFetchWord (s : State) (nbits w : Nat) : State :=
  { s with mem := s.mem.placeWord s.cfg s.fetchAddr (BitVec.ofNat 32 (w % 2 ^ nbits)) }

end Sys2Proof.Machine
end

