-- ==== Sys2Proof/Machine/HostPort.lean ====
section
/-! DEFINITION. The host's operations between steps: the register port (10_state R160 to R166), the memory port
(20_memory R206, R213, R218), the breakpoint requests (60_exceptions R1041 to R1043), the last-step record
(40_execution_engine R441) and `reset()` (70_reset_and_hazards R1100). -/

namespace Sys2Proof.Machine

/-- Why a host operation fails; it then has no effect. -/
inductive PortError
  /-- `UnknownRegister` (10_state R160). -/
  | unknownRegister
  /-- `InvalidWindow` (10_state R108, R163). -/
  | invalidWindow
  /-- `NoPair` (10_state R164). -/
  | noPair
  /-- `ContractViolation` (20_memory R218). -/
  | contractViolation
  /-- `SecondLevelAllocationFailed` or `PageAllocationFailed` (20_memory R205). -/
  | allocation (level : AllocLevel)
  /-- A failure of the breakpoint table (60_exceptions R1041, R1042). -/
  | breakpoint (error : BreakError)
  deriving DecidableEq, Repr

/-- A register as the host names it (10_state R160). -/
inductive RegName
  | integer (r : Reg)
  | float (r : Reg)
  | pc | npc | psr | fsr | tbr | wim | y
  deriving DecidableEq, Repr

/-- The names of x[0] to x[31]: bank b and index k at 8*b + k (10_state R100, R160). -/
def integerNames : List String :=
  ["g0", "g1", "g2", "g3", "g4", "g5", "g6", "g7", "o0", "o1", "o2", "o3", "o4", "o5", "o6", "o7"] ++
  ["l0", "l1", "l2", "l3", "l4", "l5", "l6", "l7", "i0", "i1", "i2", "i3", "i4", "i5", "i6", "i7"]

/-- The names of f[0] to f[31] (10_state R160). -/
def floatNames : List String :=
  ["f0", "f1", "f2", "f3", "f4", "f5", "f6", "f7", "f8", "f9", "f10", "f11", "f12", "f13", "f14", "f15"] ++
  ["f16", "f17", "f18", "f19", "f20", "f21", "f22", "f23", "f24", "f25", "f26", "f27", "f28", "f29", "f30", "f31"]

/-- The special registers with their names (10_state R160). -/
def specialNames : List (String × RegName) :=
  [("pc", .pc), ("npc", .npc), ("psr", .psr), ("fsr", .fsr), ("tbr", .tbr), ("wim", .wim), ("y", .y)]

/-- The place of a name in a list of names. -/
def namePlace (name : String) : List String → Nat → Option Nat
  | [], _ => none
  | n :: rest, i => if n = name then some i else namePlace name rest (i + 1)

/-- The register a string names; every other string is unknown (10_state R160). -/
def regNamed (name : String) : Option RegName :=
  match namePlace name integerNames 0 with
  | some i => some (.integer (BitVec.ofNat 5 i))
  | none =>
    match namePlace name floatNames 0 with
    | some i => some (.float (BitVec.ofNat 5 i))
    | none => (specialNames.find? fun e => e.1 == name).map Prod.snd

/-- `getWindow()` (10_state R163): the view window. -/
def State.viewWindow (s : State) : Nat := s.viewOverride.getD s.window

/-- A global needs no window; every other integer register needs a view window below NWINDOWS (10_state R108). -/
def State.viewReaches (s : State) (r : Reg) : Bool := r.toNat < 8 || s.viewWindow < s.cfg.nwindows

/-- The value of a named register through the view window (10_state R161). -/
def State.readNamed (s : State) : RegName → Except PortError Word
  | .integer r => if s.viewReaches r then .ok (s.xIn s.viewWindow r) else .error .invalidWindow
  | .float r => .ok (s.fr r)
  | .pc => .ok s.pc
  | .npc => .ok s.npc
  | .psr => .ok s.psr
  | .fsr => .ok s.fsr
  | .tbr => .ok s.tbr
  | .wim => .ok s.wim
  | .y => .ok s.y

/-- The state after a verbatim write of a named register through the view window (10_state R162). -/
def State.writeNamed (s : State) (v : Word) : RegName → Except PortError State
  | .integer r => if s.viewReaches r then .ok (s.setXIn s.viewWindow r v) else .error .invalidWindow
  | .float r => .ok (s.setF r v)
  | .pc => .ok { s with pc := v }
  | .npc => .ok { s with npc := v }
  | .psr => .ok { s with psr := v }
  | .fsr => .ok { s with fsr := v }
  | .tbr => .ok { s with tbr := v }
  | .wim => .ok { s with wim := v }
  | .y => .ok { s with y := v }

/-- `get(name)` (10_state R161). -/
def State.get (s : State) (name : String) : Except PortError Word :=
  match regNamed name with
  | some r => s.readNamed r
  | none => .error .unknownRegister

/-- `set(name, v)` (10_state R162). -/
def State.set (s : State) (name : String) (v : Word) : Except PortError State :=
  match regNamed name with
  | some r => s.writeNamed v r
  | none => .error .unknownRegister

/-- `setWindow(k)` (10_state R163): psr.cwp is unchanged. -/
def State.setWindow (s : State) (k : Nat) : Except PortError State :=
  if k < s.cfg.nwindows then .ok { s with viewOverride := some k } else .error .invalidWindow

/-- The name after an even-numbered place of a list of names. -/
def pairName (names : List String) (name : String) : Option String :=
  match namePlace name names 0 with
  | some i => if i % 2 = 0 then names[i + 1]? else none
  | none => none

/-- `nextRegisterName(name)` (10_state R164). -/
def nextRegisterName (name : String) : Except PortError String :=
  match pairName integerNames name, pairName floatNames name with
  | some n, _ => .ok n
  | none, some n => .ok n
  | none, none => .error .noPair

/-- `isErrorMode()` (10_state R165). -/
def State.isErrorMode (s : State) : Bool := s.errorMode

/-- `lastStep()` (40_execution_engine R441). -/
def State.lastStep (s : State) : LastStep := s.last

/-! ### The memory port (20_memory R213) -/

/-- A state with a memory that an operation may fail to give. -/
def State.withMemory (s : State) : Except AllocLevel Memory → Except PortError State
  | .ok m => .ok { s with mem := m }
  | .error l => .error (.allocation l)

/-- An access that must be aligned, or it is a contract violation of the caller (20_memory R218). -/
def contract {α : Type} (a : Word) (n : Nat) (body : Except PortError α) : Except PortError α :=
  if aligned a n then body else .error .contractViolation

/-- `allocate(addr)`. -/
def State.allocate (s : State) (a : Word) : Except PortError State := s.withMemory (s.mem.ensure s.cfg a)

/-- `readByte(addr)`. -/
def State.readByte (s : State) (a : Word) : Except PortError Byte := .ok (s.mem.read1 a)

/-- `readHalfWord(addr)`. -/
def State.readHalfWord (s : State) (a : Word) : Except PortError (BitVec 16) := contract a 2 (.ok (s.mem.read2 a))

/-- `readWord(addr)`. -/
def State.readWord (s : State) (a : Word) : Except PortError Word := contract a 4 (.ok (s.mem.read4 a))

/-- `readWordAsBytes(addr)`. -/
def State.readWordAsBytes (s : State) (a : Word) : Except PortError (List Byte) :=
  contract a 4 (.ok [s.mem.byte a, s.mem.byte (a + 1), s.mem.byte (a + 2), s.mem.byte (a + 3)])

/-- `writeByte(addr, b)`. -/
def State.writeByte (s : State) (a : Word) (b : Byte) : Except PortError State :=
  s.withMemory (s.mem.write s.cfg a [b])

/-- `writeHalfWord(addr, h)`. -/
def State.writeHalfWord (s : State) (a : Word) (h : BitVec 16) : Except PortError State :=
  contract a 2 (s.withMemory (s.mem.write s.cfg a (bytesOfHalf h)))

/-- `writeWord(addr, w)`. -/
def State.writeWord (s : State) (a w : Word) : Except PortError State :=
  contract a 4 (s.withMemory (s.mem.write s.cfg a (bytesOfWord w)))

/-- `allocationCount()` (20_memory R206): (l2_count, page_count). -/
def State.allocationCount (s : State) : Nat × Nat := (s.mem.l2.length, s.mem.pages.length)

/-! ### The breakpoint table (60_exceptions R1041 to R1043) -/

/-- The host's `add(addr, kind)`. -/
def State.addBreakpoint (s : State) (a : Word) (kind : BreakKind) : Except PortError (Nat × State) :=
  match s.bps.add s.cfg.bpCapacity a kind with
  | .ok (serial, t) => .ok (serial, { s with bps := t })
  | .error e => .error (.breakpoint e)

/-- The host's `delete(serial)`. -/
def State.deleteBreakpoint (s : State) (serial : Nat) : Except PortError State :=
  match s.bps.delete serial with
  | .ok t => .ok { s with bps := t }
  | .error e => .error (.breakpoint e)

/-! ### Reset (70_reset_and_hazards R1100) -/

/-- `reset()`: every piece of state takes its power-on value, except the AddressSpace, which is unchanged. -/
def State.hostReset (s : State) : State := { State.powerOn s.cfg with mem := s.mem }

end Sys2Proof.Machine
end

