-- ==== Sys2Proof/Machine/Run.lean ====
section
/-! DEFINITION. `step()` with its outcome as the spec types it (40_execution_engine R401), and `continue(n)` (R450,
R451). -/

namespace Sys2Proof.Machine

/-- `step()` as the host sees it: the outcome, and the state after it. A fault is an outcome that changes no state
(DESIGN CHOICE, log 3). -/
def stepOutcome (s : State) : Except Refusal (Report × State) :=
  match step s with
  | .next t => .ok (t.report, t)
  | .fault f => .ok (f.report, s)
  | .refused r => .error r

/-- The loop of `continue(n)` with the outcome it has so far (40_execution_engine R450). -/
def continueFrom : Nat → Report → State → Except Refusal (Report × State)
  | 0, out, s => .ok (out, s)
  | k + 1, _, s =>
    match stepOutcome s with
    | .error r => .error r
    | .ok (out, t) => if out.isContinue then continueFrom k out t else .ok (out, t)

/-- `continue(n)` (40_execution_engine R450): `continue(0)` runs no step. -/
def continueFor (n : Nat) (s : State) : Except Refusal (Report × State) := continueFrom n (.continued none) s

/-- An unbounded `continue` that returns `out` in state `t` (40_execution_engine R450; DESIGN CHOICE, log 13). -/
def ContinuesTo (s : State) (out : Report) (t : State) : Prop :=
  ∃ n, continueFor n s = .ok (out, t) ∧ out.isContinue = false

end Sys2Proof.Machine
end

