-- ==== Sys2Proof/Safety.lean ====
section
/-! DEFINITION. The terms the statements use: the invariants of a state, the gates of a step, what the program can see,
and what an instruction may leave as it was. -/

namespace Sys2Proof.Machine

/-- The shape of the state: a legal configuration (00_scope R9), 16 * NWINDOWS windowed registers (10_state R103) and a
current window that exists (10_state R108). -/
abbrev State.Shaped (s : State) : Prop :=
  s.cfg.Legal ∧ s.w.length = 16 * s.cfg.nwindows ∧ s.window < s.cfg.nwindows

/-- pc and npc are multiples of 4 (10_state R109). -/
abbrev State.PcAligned (s : State) : Prop := alignWord s.pc = s.pc ∧ alignWord s.npc = s.npc

/-- The allocation sets fit the bytes and each other (20_memory R201): every byte that is not zero lies in an owned
page, and every owned page lies under an owned second-level table. -/
abbrev Memory.Allocated (c : Config) (m : Memory) : Prop :=
  (∀ cell ∈ m.cells, cell.1 / 2 ^ c.pageBits ∈ m.pages) ∧ (∀ p ∈ m.pages, p / 2 ^ c.l2Bits ∈ m.l2)

/-- A count within a capacity; no capacity is no bound (00_scope R9). -/
abbrev Within (n : Nat) (capacity : Option Nat) : Prop := ∀ k, capacity = some k → n ≤ k

/-- The allocation counters are within the capacities (20_memory R205). -/
abbrev Memory.WithinCapacity (c : Config) (m : Memory) : Prop :=
  Within m.l2.length c.l2Capacity ∧ Within m.pages.length c.pageCapacity

/-- The invariant of the AddressSpace. -/
abbrev State.MemoryGood (s : State) : Prop := s.mem.wf ∧ s.mem.Allocated s.cfg ∧ s.mem.WithinCapacity s.cfg

/-- The gates of a step are open (40_execution_engine R402): no error mode, and a current window that exists. -/
abbrev State.Live (s : State) : Prop := s.errorMode = false ∧ s.window < s.cfg.nwindows

/-- No execution breakpoint at the fetch address (40_execution_engine R415). -/
abbrev State.Unbroken (s : State) : Prop := s.bps.matchExecution s.fetchAddr = none

/-- The page of an address exists or can be made to exist (20_memory R205). -/
abbrev State.Allocatable (s : State) (a : Word) : Prop := ∃ m, s.mem.ensure s.cfg a = .ok m

/-- The address is one of the n stored bytes from `start` up, modulo 2^32. -/
abbrev Stored (start : Word) (n : Nat) (a : Word) : Prop := (a - start).toNat < n

/-! ### What an instruction changes -/

/-- The parts of the state that instructions can change (10_state R155). -/
inductive Part
  | integers | floats | counters | psr | fsr | tbr | wim | y | memory
  deriving DecidableEq, Repr

/-- A part is the same in both states: register by register, and memory byte by byte with its allocation. -/
def Part.Same (s t : State) : Part → Prop
  | .integers => ∀ slot, t.readSlot slot = s.readSlot slot
  | .floats => ∀ r, t.fr r = s.fr r
  | .counters => t.pc = s.pc ∧ t.npc = s.npc
  | .psr => t.psr = s.psr
  | .fsr => t.fsr = s.fsr
  | .tbr => t.tbr = s.tbr
  | .wim => t.wim = s.wim
  | .y => t.y = s.y
  | .memory => (∀ a, t.mem.byte a = s.mem.byte a) ∧ t.mem.l2 = s.mem.l2 ∧ t.mem.pages = s.mem.pages

/-- What no instruction that completes or traps changes (10_state R155): the parameters, the size of the register file,
error mode, the host's view, the last-step record and the BreakpointTable. -/
abbrev State.EngineKept (s t : State) : Prop :=
  t.cfg = s.cfg ∧ t.w.length = s.w.length ∧ t.errorMode = s.errorMode ∧ t.viewOverride = s.viewOverride ∧
    t.last = s.last ∧ t.bps = s.bps

/-- Every part of the state but the named ones is unchanged. -/
def State.KeptBut (s t : State) (changed : List Part) : Prop := s.EngineKept t ∧ ∀ p, p ∉ changed → p.Same s t

/-- Every integer register slot but those of the named registers of window `win` is unchanged, whatever window it is
seen through. -/
def State.SlotsKeptBut (s t : State) (win : Nat) (changed : List Reg) : Prop :=
  ∀ slot, (∀ r ∈ changed, slot ≠ resolve s.cfg.nwindows win r) → t.readSlot slot = s.readSlot slot

/-- The answer is a next state with a property. -/
def Gives (r : Result) (P : State → Prop) : Prop := ∃ t, r = .next t ∧ P t

/-- x[rd] of the window the instruction ran in got v, or a write to g0 was discarded (10_state R102), and every other
integer register is unchanged. -/
def State.WritesX (s : State) (rd : Reg) (v : Word) (t : State) : Prop :=
  t.xIn s.window rd = (if rd = 0 then 0 else v) ∧ s.SlotsKeptBut t s.window [rd]

/-- f[rd] got v, and every other f register is unchanged. -/
def State.WritesF (s : State) (rd : Reg) (v : Word) (t : State) : Prop :=
  t.fr rd = v ∧ ∀ r, r ≠ rd → t.fr r = s.fr r

/-- f[rd] and f[rd + 1] got the upper and the lower word of v (10_state R140), and every other f register is
unchanged. -/
def State.WritesFd (s : State) (rd : Reg) (v : BitVec 64) (t : State) : Prop :=
  t.fr rd = v.extractLsb' 32 32 ∧ t.fr (rd + 1) = v.extractLsb' 0 32 ∧ ∀ r, r ≠ rd → r ≠ rd + 1 → t.fr r = s.fr r

/-- The instruction completed with no trap and no data write. -/
def Quietly (t : State) : Prop := t.report = .continued none ∧ t.writes = []

/-- The sequential advance (40_execution_engine R420). -/
def State.Advanced (s t : State) : Prop := t.pc = s.npc ∧ t.npc = s.npc + 4

/-- A store of `bytes` from `start` up: the bytes stored, every other byte as it was, the page of the address owned and
no other made, and the data-write list (20_memory R205, R211; 44_load_store R803). -/
def State.Stores (s : State) (start : Word) (bytes : List Byte) (t : State) : Prop :=
  (∀ k (h : k < bytes.length), t.mem.byte (start + BitVec.ofNat 32 k) = bytes[k]) ∧
    (∀ a, ¬Stored start bytes.length a → t.mem.byte a = s.mem.byte a) ∧
    (∀ n, n ∈ t.mem.pages ↔ n = start.toNat / 2 ^ s.cfg.pageBits ∨ n ∈ s.mem.pages) ∧
    (∀ n, n ∈ t.mem.l2 ↔ n = start.toNat / 2 ^ (32 - s.cfg.rootBits) ∨ n ∈ s.mem.l2) ∧
    t.writes = [⟨start, bytes⟩] ∧ t.report = .continued none ∧ s.Advanced t

/-! ### Traps -/

/-- The trap base register with a new tt and nothing else new (10_state R131). -/
def NewTt (tt : BitVec 8) (before after : Word) : Prop :=
  Tbr.tba after = Tbr.tba before ∧ Tbr.tt after = tt ∧ Tbr.zero after = Tbr.zero before

/-- The trap tt was taken as 60_exceptions R1011 says; `fsr` is the FSR that a trapping FPop leaves, and otherwise the
old one. -/
def TrapTaken (tt : BitVec 8) (fsr : Word) (s t : State) : Prop :=
  let new := (s.window + s.cfg.nwindows - 1) % s.cfg.nwindows
  castToPSR t.psr = { castToPSR s.psr with
    et := false, ps := (castToPSR s.psr).s, s := true, cwp := BitVec.ofNat 5 new } ∧
  t.xIn new 17 = s.pc ∧ t.xIn new 18 = s.npc ∧ s.SlotsKeptBut t new [17, 18] ∧ NewTt tt s.tbr t.tbr ∧
  t.pc = (Tbr.tba s.tbr).zeroExtend 32 <<< 12 ||| tt.zeroExtend 32 <<< 4 ∧ t.npc = t.pc + 4 ∧ t.fsr = fsr ∧
  t.report = .continued (some tt) ∧ t.writes = [] ∧ s.KeptBut t [.integers, .counters, .psr, .fsr, .tbr]

/-- Error mode was entered with tt as 60_exceptions R1013 says. -/
def ErrorModeEntered (tt : BitVec 8) (fsr : Word) (s t : State) : Prop :=
  NewTt tt s.tbr t.tbr ∧
    t = { s with errorMode := true, tbr := t.tbr, fsr := fsr, report := .errorMode tt, writes := [] }

/-- The trap condition tt is met: the trap is taken with psr.et = 1, and error mode entered with psr.et = 0
(60_exceptions R1010). -/
def Traps (tt : BitVec 8) (fsr : Word) (s : State) (r : Result) : Prop :=
  Gives r fun t => if Psr.et s.psr then TrapTaken tt fsr s t else ErrorModeEntered tt fsr s t

end Sys2Proof.Machine
end

