-- ==== Sys2Proof/Certificates/Slice0/Obligations.lean ====
section
/-! DEFINITION. The statements for the provers. Each docstring names the rules it formalises, or says that it rests on a
choice of the model and names its log entry. -/

open Sys2Proof Sys2Proof.Machine

/-! ### Encoding (30_encoding) -/

/-- R302, R310 to R325: decoding the encoding of a well-formed instruction gives it back, whatever its operands; and the
decoder gives only well-formed instructions: the word 0x01000000 is NOP and never a SETHI, and a catch-all FPop never has
the opf of another row. -/
def Obligations.DecodeEncode : Prop :=
  (∀ i : Instr, i.wellFormed = true → decode (encode i) = .ok i) ∧
    ∀ (w : Word) (i : Instr), decode w = .ok i → i.wellFormed = true

/-- R325: the decoder reads from every word the row of the opcode table that the word matches first, by match and mask,
and refuses exactly the words that match none. -/
def Obligations.DecodeAgreesWithTable : Prop :=
  ∀ w : Word, (decode w).toOption.map Instr.mnemonic = (matchRow opcodeTable w).map OpcodeRow.mnemonic

/-- Words written out from the encodings of 30_encoding R302 to R324, one of each format, with what they stand for. -/
def Obligations.DecodedWords : Prop :=
  decode 0x86004002 = .ok (.add 3 1 (.reg 2)) ∧ decode 0x9DE3BFA0 = .ok (.save 14 14 (.imm (-96))) ∧
    decode 0x07048D15 = .ok (.sethi 3 0x048D15) ∧ decode 0x01000000 = .ok .nop ∧
    decode 0x2F800004 = .ok (.fbu true 4) ∧ decode 0x40000400 = .ok (.call 0x400) ∧
    decode 0xC4186000 = .ok (.ldd 2 1 (.imm 0)) ∧ decode 0x81804002 = .ok (.wry 1 (.reg 2)) ∧
    decode 0x8143C000 = .ok .stbar ∧ decode 0x89A00842 = .ok (.faddd 4 0 2) ∧ decode 0x81A84A22 = .ok (.fcmps 1 2) ∧
    decode 0x81A00060 = .ok (.fpop1Unimplemented 0 0 3 0)

/-! ### The step (40_execution_engine) -/

/-- R402, R410, R416: with the gates open, no execution breakpoint and a recognised word at the program counter, the step
is the execution of the decoded instruction. Around it the step adds the last-step record, and the report of a watched
write; the step that enters error mode adds nothing. -/
def Obligations.StepRunsTheDecodedInstruction : Prop :=
  ∀ (s : State) (i : Instr), s.Live → s.Unbroken → decode s.fetchWord = .ok i →
    i.mnemonic ∉ s.cfg.notImplemented → (∀ n, i ≠ .unimp n) →
      (∀ f, exec i s = .fault f → step s = .fault f) ∧
      ∀ t, exec i s = .next t → ∃ u, step s = .next u ∧
        (∀ trap, t.report = .continued trap → watchHit t.bps s.mem t.mem t.writes = none →
          u = { t with last := ⟨true, s.fetchAddr, s.fetchWord⟩ }) ∧
        (∀ trap hit, t.report = .continued trap → watchHit t.bps s.mem t.mem t.writes = some hit →
          u = { t with last := ⟨true, s.fetchAddr, s.fetchWord⟩, report := hit }) ∧
        (∀ tt, t.report = .errorMode tt → u = t)

/-- R402, R412, R415: the gates and the pre-check in their order: error mode, then a window that does not exist, then an
unrecognised word (no row, a row that is not implemented, or UNIMP), whatever breakpoints there are, and then an execution
breakpoint at the fetch address. None of them changes state. That the word of NOP is implemented when either of the two
rows it matches is, is the model's reading (log 12). -/
def Obligations.StepGates : Prop :=
  ∀ s : State,
    (s.errorMode = true → stepOutcome s = .ok (.errorMode (Tbr.tt s.tbr), s)) ∧
    (s.errorMode = false → s.cfg.nwindows ≤ s.window → stepOutcome s = .ok (.invalidWindow (Psr.cwp s.psr), s)) ∧
    (s.Live →
      (matchRow opcodeTable s.fetchWord = none ∨
        (∃ i, decode s.fetchWord = .ok i ∧ i.mnemonic ∈ s.cfg.notImplemented ∧
          (i = .nop → "SETHI" ∈ s.cfg.notImplemented)) ∨
        ∃ n, decode s.fetchWord = .ok (.unimp n)) →
      stepOutcome s = .ok (.illegalInstruction s.fetchAddr s.fetchWord, s)) ∧
    ∀ i e, s.Live → decode s.fetchWord = .ok i → i.mnemonic ∉ s.cfg.notImplemented → (∀ n, i ≠ .unimp n) →
      s.bps.entries.find? (fun b => b.kind == .execution && b.addr == s.fetchAddr) = some e →
        stepOutcome s = .ok (.breakpoint e.serial, s)

/-- R401: every step returns an outcome; none is refused. R404: an outcome that changes no state leaves the state as it
was, and the step then returns it again. -/
def Obligations.StoppedStepIsSafeToRetry : Prop :=
  ∀ s : State, ∃ out t, stepOutcome s = .ok (out, t) ∧
    ((∃ n, out = .breakpoint n) ∨ (∃ a w, out = .illegalInstruction a w) ∨ (∃ l, out = .allocationFailed l) ∨
      (∃ c, out = .invalidWindow c) ∨ ((∃ tt, out = .errorMode tt) ∧ s.errorMode = true) →
        t = s ∧ stepOutcome t = .ok (out, t))

/-- R440: the last-step record is written on Continue and Watchpoint, and on no other outcome. -/
def Obligations.LastStepRecord : Prop :=
  ∀ (s t : State) (out : Report), stepOutcome s = .ok (out, t) →
    t.last = match out with
      | .continued _ => ⟨true, s.fetchAddr, s.fetchWord⟩
      | .watchpoint _ _ _ _ => ⟨true, s.fetchAddr, s.fetchWord⟩
      | _ => s.last

/-- 60_exceptions R1046, 40_execution_engine R430: a step reports a watchpoint exactly when its write touches a watched
word: the first such word in ascending order, with the word before and after the step. -/
def Obligations.WatchpointReport : Prop :=
  ∀ (s t : State) (out : Report), stepOutcome s = .ok (out, t) →
    (∀ n a old new, out = .watchpoint n a old new →
      ∃ d words₁ words₂, t.writes = [d] ∧
        (if d.bytes.length ≤ 4 then [alignWord d.addr] else [d.addr, d.addr + 4]) = words₁ ++ a :: words₂ ∧
        (∃ e, s.bps.entries.find? (fun b => b.kind == .data && b.addr == a) = some e ∧ e.serial = n) ∧
        (∀ b ∈ words₁, s.bps.matchData b = none) ∧ old = s.mem.read4 a ∧ new = t.mem.read4 a) ∧
    (∀ trap, out = .continued trap → ∀ d ∈ t.writes,
      ∀ a ∈ (if d.bytes.length ≤ 4 then [alignWord d.addr] else [d.addr, d.addr + 4]), s.bps.matchData a = none)

/-- R450: continue(0) runs no step; a continue that stops before its count returns that outcome and state; and otherwise
a continue of m + n steps is a continue of m followed by one of n. -/
def Obligations.ContinueComposes : Prop :=
  (∀ s : State, continueFor 0 s = .ok (.continued none, s)) ∧
  (∀ s : State, continueFor 1 s = stepOutcome s) ∧
  ∀ (m n : Nat) (s t : State) (out : Report), continueFor m s = .ok (out, t) →
    (out.isContinue = false → continueFor (m + n) s = .ok (out, t)) ∧
    (out.isContinue = true → 0 < n → continueFor (m + n) s = continueFor n t)

/-! ### Integer arithmetic (41_integer_arithmetic) -/

/-- R510, R512, R514, R516, R520 to R530, R535 to R540: the instructions that write x[rd] and no flag. The shift count
is op2 modulo 32. -/
def Obligations.PlainArithmetic : Prop :=
  ∀ (s : State) (rd rs1 : Reg) (op2 : Op2) (imm22 : BitVec 22), s.Shaped →
    let a := s.x rs1
    let b := s.operand op2
    let carry : Word := if (castToPSR s.psr).icc.c then 1 else 0
    let gets := fun (i : Instr) (v : Word) => Gives (exec i s) fun t =>
      s.WritesX rd v t ∧ s.Advanced t ∧ Quietly t ∧ s.KeptBut t [.integers, .counters]
    gets (.add rd rs1 op2) (a + b) ∧ gets (.addx rd rs1 op2) (a + b + carry) ∧
    gets (.sub rd rs1 op2) (a - b) ∧ gets (.subx rd rs1 op2) (a - b - carry) ∧
    gets (.and rd rs1 op2) (a &&& b) ∧ gets (.andn rd rs1 op2) (a &&& ~~~b) ∧
    gets (.or rd rs1 op2) (a ||| b) ∧ gets (.orn rd rs1 op2) (a ||| ~~~b) ∧
    gets (.xor rd rs1 op2) (a ^^^ b) ∧ gets (.xnor rd rs1 op2) (~~~(a ^^^ b)) ∧
    gets (.sll rd rs1 op2) (BitVec.ofNat 32 (a.toNat * 2 ^ (b.toNat % 32))) ∧
    gets (.srl rd rs1 op2) (BitVec.ofNat 32 (a.toNat / 2 ^ (b.toNat % 32))) ∧
    gets (.sra rd rs1 op2) (BitVec.ofInt 32 (a.toInt / 2 ^ (b.toNat % 32))) ∧
    gets (.sethi rd imm22) (BitVec.ofNat 32 (imm22.toNat * 1024))

/-- R511, R513, R515, R517 with the SPARC V8 bit formulas of R501 and R502, R504: x[rd], and exactly the four icc bits,
also with rd = 0. -/
def Obligations.AddSubtractCc : Prop :=
  ∀ (s : State) (rd rs1 : Reg) (op2 : Op2), s.Shaped →
    let a := s.x rs1
    let b := s.operand op2
    let carry : Word := if (castToPSR s.psr).icc.c then 1 else 0
    let gets := fun (i : Instr) (r : Word) (v c : Bool) => Gives (exec i s) fun t =>
      s.WritesX rd r t ∧ castToPSR t.psr = { castToPSR s.psr with icc := ⟨r.msb, decide (r = 0), v, c⟩ } ∧
        s.Advanced t ∧ Quietly t ∧ s.KeptBut t [.integers, .counters, .psr]
    let added := fun (i : Instr) (r : Word) =>
      gets i r ((a.msb && b.msb && !r.msb) || (!a.msb && !b.msb && r.msb))
        ((a.msb && b.msb) || (!r.msb && (a.msb || b.msb)))
    let subtracted := fun (i : Instr) (r : Word) =>
      gets i r ((a.msb && !b.msb && !r.msb) || (!a.msb && b.msb && r.msb))
        ((!a.msb && b.msb) || (r.msb && (!a.msb || b.msb)))
    added (.addcc rd rs1 op2) (a + b) ∧ added (.addxcc rd rs1 op2) (a + b + carry) ∧
    subtracted (.subcc rd rs1 op2) (a - b) ∧ subtracted (.subxcc rd rs1 op2) (a - b - carry)

/-- R521, R523, R525, R527, R529, R531 with R503 and R504: x[rd], n and z of the result, v = c = 0. -/
def Obligations.LogicCc : Prop :=
  ∀ (s : State) (rd rs1 : Reg) (op2 : Op2), s.Shaped →
    let a := s.x rs1
    let b := s.operand op2
    let gets := fun (i : Instr) (r : Word) => Gives (exec i s) fun t =>
      s.WritesX rd r t ∧ castToPSR t.psr = { castToPSR s.psr with icc := ⟨r.msb, decide (r = 0), false, false⟩ } ∧
        s.Advanced t ∧ Quietly t ∧ s.KeptBut t [.integers, .counters, .psr]
    gets (.andcc rd rs1 op2) (a &&& b) ∧ gets (.andncc rd rs1 op2) (a &&& ~~~b) ∧
    gets (.orcc rd rs1 op2) (a ||| b) ∧ gets (.orncc rd rs1 op2) (a ||| ~~~b) ∧
    gets (.xorcc rd rs1 op2) (a ^^^ b) ∧ gets (.xnorcc rd rs1 op2) (~~~(a ^^^ b))

/-- R501 to R503, R502: the flag functions agree with the SPARC V8 bit formulas for either carry in, and with the carries
and overflows of the exact integers. -/
def Obligations.FlagFormulas : Prop :=
  ∀ (a b : Word) (cin : Bool),
    let sum := a + b + (if cin then 1 else 0)
    let diff := a - b - (if cin then 1 else 0)
    let k : Int := if cin then 1 else 0
    addValue a b cin = sum ∧ subValue a b cin = diff ∧
    addIcc a b cin = ⟨sum.msb, decide (sum = 0),
      (a.msb && b.msb && !sum.msb) || (!a.msb && !b.msb && sum.msb),
      (a.msb && b.msb) || (!sum.msb && (a.msb || b.msb))⟩ ∧
    subIcc a b cin = ⟨diff.msb, decide (diff = 0),
      (a.msb && !b.msb && !diff.msb) || (!a.msb && b.msb && diff.msb),
      (!a.msb && b.msb) || (diff.msb && (!a.msb || b.msb))⟩ ∧
    ((addIcc a b cin).v = false ↔ sum.toInt = a.toInt + b.toInt + k) ∧
    ((addIcc a b cin).c = false ↔ (sum.toNat : Int) = a.toNat + b.toNat + k) ∧
    ((subIcc a b cin).v = false ↔ diff.toInt = a.toInt - b.toInt - k) ∧
    ((subIcc a b cin).c = false ↔ (diff.toNat : Int) = a.toNat - b.toNat - k)

/-- R545 to R548: the tagged operations. v is the tag overflow: the overflow of the exact sum or difference, or a
nonzero tag. The trapping forms complete when it is 0. -/
def Obligations.TaggedArithmetic : Prop :=
  ∀ (s : State) (rd rs1 : Reg) (op2 : Op2), s.Shaped →
    let a := s.x rs1
    let b := s.operand op2
    let tags := decide (a.toNat % 4 ≠ 0) || decide (b.toNat % 4 ≠ 0)
    let sumTv := decide ((a + b).toInt ≠ a.toInt + b.toInt) || tags
    let diffTv := decide ((a - b).toInt ≠ a.toInt - b.toInt) || tags
    let gets := fun (i : Instr) (r : Word) (v c : Bool) => Gives (exec i s) fun t =>
      s.WritesX rd r t ∧ castToPSR t.psr = { castToPSR s.psr with icc := ⟨r.msb, decide (r = 0), v, c⟩ } ∧
        s.Advanced t ∧ Quietly t ∧ s.KeptBut t [.integers, .counters, .psr]
    gets (.taddcc rd rs1 op2) (a + b) sumTv (decide (2 ^ 32 ≤ a.toNat + b.toNat)) ∧
    gets (.tsubcc rd rs1 op2) (a - b) diffTv (decide (a.toNat < b.toNat)) ∧
    (sumTv = false → gets (.taddcctv rd rs1 op2) (a + b) false (decide (2 ^ 32 ≤ a.toNat + b.toNat))) ∧
    (diffTv = false → gets (.tsubcctv rd rs1 op2) (a - b) false (decide (a.toNat < b.toNat)))

/-- R546, R548: tag_overflow of the trapping forms, which comes before any write. -/
def Obligations.TagOverflowTraps : Prop :=
  ∀ (s : State) (rd rs1 : Reg) (op2 : Op2), s.Shaped →
    let a := s.x rs1
    let b := s.operand op2
    let tags := decide (a.toNat % 4 ≠ 0) || decide (b.toNat % 4 ≠ 0)
    ((decide ((a + b).toInt ≠ a.toInt + b.toInt) || tags) = true →
      Traps 0x0A s.fsr s (exec (.taddcctv rd rs1 op2) s)) ∧
    ((decide ((a - b).toInt ≠ a.toInt - b.toInt) || tags) = true →
      Traps 0x0A s.fsr s (exec (.tsubcctv rd rs1 op2) s))

/-- R550, R555 to R558: the multiplies, whose y and x[rd] are the two words of the exact product of the integers; and the
multiply step, every read made before any write. -/
def Obligations.Multiply : Prop :=
  ∀ (s : State) (rd rs1 : Reg) (op2 : Op2), s.Shaped →
    let a := s.x rs1
    let b := s.operand op2
    let gets := fun (i : Instr) (p : Int) => Gives (exec i s) fun t =>
      s.WritesX rd (BitVec.ofInt 32 p) t ∧ t.y = BitVec.ofInt 32 (p / 2 ^ 32) ∧ s.Advanced t ∧ Quietly t ∧
        s.KeptBut t [.integers, .counters, .y]
    let getsCc := fun (i : Instr) (p : Int) => Gives (exec i s) fun t =>
      let r := BitVec.ofInt 32 p
      s.WritesX rd r t ∧ t.y = BitVec.ofInt 32 (p / 2 ^ 32) ∧
        castToPSR t.psr = { castToPSR s.psr with icc := ⟨r.msb, decide (r = 0), false, false⟩ } ∧
        s.Advanced t ∧ Quietly t ∧ s.KeptBut t [.integers, .counters, .psr, .y]
    gets (.umul rd rs1 op2) (a.toNat * b.toNat) ∧ gets (.smul rd rs1 op2) (a.toInt * b.toInt) ∧
    getsCc (.umulcc rd rs1 op2) (a.toNat * b.toNat) ∧ getsCc (.smulcc rd rs1 op2) (a.toInt * b.toInt) ∧
    let p := castToPSR s.psr
    let op1 := (s.x rs1 >>> 1) ||| (if p.icc.n ^^ p.icc.v then 0x80000000 else 0)
    let addend := if s.y.toNat % 2 = 1 then s.operand op2 else 0
    let r := op1 + addend
    Gives (exec (.mulscc rd rs1 op2) s) fun t =>
      s.WritesX rd r t ∧ t.y = (s.y >>> 1) ||| (if (s.x rs1).toNat % 2 = 1 then 0x80000000 else 0) ∧
        castToPSR t.psr = { p with
          icc := ⟨r.msb, decide (r = 0), decide (r.toInt ≠ op1.toInt + addend.toInt),
            decide (2 ^ 32 ≤ op1.toNat + addend.toNat)⟩ } ∧
        s.Advanced t ∧ Quietly t ∧ s.KeptBut t [.integers, .counters, .psr, .y]

/-- R560 to R564: the divides. The 64-bit dividend is y with x[rs1]; the quotient is rounded toward zero and clamped.
y is not written. A divisor of 0 raises division_by_zero before any write. -/
def Obligations.Divide : Prop :=
  ∀ (s : State) (rd rs1 : Reg) (op2 : Op2), s.Shaped →
    let b := s.operand op2
    let uq : Nat := (s.y.toNat * 2 ^ 32 + (s.x rs1).toNat) / b.toNat
    let sq : Int := (s.y.toInt * 2 ^ 32 + (s.x rs1).toNat).tdiv b.toInt
    let u : Word := BitVec.ofNat 32 (min uq (2 ^ 32 - 1))
    let q : Word := BitVec.ofInt 32 (max (-2 ^ 31) (min sq (2 ^ 31 - 1)))
    let gets := fun (i : Instr) (r : Word) => Gives (exec i s) fun t =>
      s.WritesX rd r t ∧ s.Advanced t ∧ Quietly t ∧ s.KeptBut t [.integers, .counters]
    let getsCc := fun (i : Instr) (r : Word) (overflow : Bool) => Gives (exec i s) fun t =>
      s.WritesX rd r t ∧ castToPSR t.psr = { castToPSR s.psr with icc := ⟨r.msb, decide (r = 0), overflow, false⟩ } ∧
        s.Advanced t ∧ Quietly t ∧ s.KeptBut t [.integers, .counters, .psr]
    let raises := fun (i : Instr) => Traps 0x2A s.fsr s (exec i s)
    (b ≠ 0 →
      gets (.udiv rd rs1 op2) u ∧ gets (.sdiv rd rs1 op2) q ∧
      getsCc (.udivcc rd rs1 op2) u (decide (2 ^ 32 ≤ uq)) ∧
      getsCc (.sdivcc rd rs1 op2) q (decide (2 ^ 31 ≤ sq) || decide (sq < -2 ^ 31))) ∧
    (b = 0 → raises (.udiv rd rs1 op2) ∧ raises (.sdiv rd rs1 op2) ∧ raises (.udivcc rd rs1 op2) ∧
      raises (.sdivcc rd rs1 op2))

/-- R541, 43_window_and_state R730, R731: NOP, STBAR and FLUSH change pc and npc and nothing else. -/
def Obligations.NoOperation : Prop :=
  ∀ (s : State) (rs1 : Reg) (op2 : Op2),
    let passes := fun (i : Instr) => Gives (exec i s) fun t => s.Advanced t ∧ Quietly t ∧ s.KeptBut t [.counters]
    passes .nop ∧ passes .stbar ∧ passes (.flush rs1 op2)

/-! ### Control transfer (42_control_transfer) -/

/-- R600 to R603, R650 to R665: the sixteen Bicc. The delay slot is annulled when a = 1 and the branch is not taken, or
when it is BA with ANNUL_TAKEN_BA. Only pc and npc change. -/
def Obligations.IntegerBranches : Prop :=
  ∀ (s : State) (a : Bool) (d : BitVec 22),
    let c := (castToPSR s.psr).icc
    let target := s.pc + BitVec.ofInt 32 (4 * d.toInt)
    let goes := fun (i : Instr) (taken annulTaken : Bool) => Gives (exec i s) fun t =>
      (t.pc, t.npc) = (if taken then (if annulTaken then (target, target + 4) else (s.npc, target))
        else (if a then (s.npc + 4, s.npc + 8) else (s.npc, s.npc + 4))) ∧ Quietly t ∧ s.KeptBut t [.counters]
    goes (.ba a d) true (a && s.cfg.annulTakenBA) ∧ goes (.bn a d) false false ∧
    goes (.bne a d) (!c.z) false ∧ goes (.be a d) c.z false ∧
    goes (.bg a d) (!(c.z || (c.n != c.v))) false ∧ goes (.ble a d) (c.z || (c.n != c.v)) false ∧
    goes (.bge a d) (c.n == c.v) false ∧ goes (.bl a d) (c.n != c.v) false ∧
    goes (.bgu a d) (!(c.c || c.z)) false ∧ goes (.bleu a d) (c.c || c.z) false ∧
    goes (.bcc a d) (!c.c) false ∧ goes (.bcs a d) c.c false ∧
    goes (.bpos a d) (!c.n) false ∧ goes (.bneg a d) c.n false ∧
    goes (.bvc a d) (!c.v) false ∧ goes (.bvs a d) c.v false

/-- R600 to R603, R610, R611, R670 to R685: the sixteen FBfcc with the FPU enabled. E, L, G and U stand for fcc 0, 1, 2
and 3. -/
def Obligations.FloatBranches : Prop :=
  ∀ (s : State) (a : Bool) (d : BitVec 22), Psr.ef s.psr = true →
    let target := s.pc + BitVec.ofInt 32 (4 * d.toInt)
    let goes := fun (i : Instr) (fccs : List Nat) (annulTaken : Bool) => Gives (exec i s) fun t =>
      (t.pc, t.npc) = (if (castToFSR s.fsr).fcc.toNat ∈ fccs then
          (if annulTaken then (target, target + 4) else (s.npc, target))
        else (if a then (s.npc + 4, s.npc + 8) else (s.npc, s.npc + 4))) ∧ Quietly t ∧ s.KeptBut t [.counters]
    goes (.fba a d) [0, 1, 2, 3] (a && s.cfg.annulTakenBA) ∧ goes (.fbn a d) [] false ∧
    goes (.fbu a d) [3] false ∧ goes (.fbg a d) [2] false ∧ goes (.fbug a d) [2, 3] false ∧
    goes (.fbl a d) [1] false ∧ goes (.fbul a d) [1, 3] false ∧ goes (.fblg a d) [1, 2] false ∧
    goes (.fbne a d) [1, 2, 3] false ∧ goes (.fbe a d) [0] false ∧ goes (.fbue a d) [0, 3] false ∧
    goes (.fbge a d) [0, 2] false ∧ goes (.fbuge a d) [0, 2, 3] false ∧ goes (.fble a d) [0, 1] false ∧
    goes (.fbule a d) [0, 1, 3] false ∧ goes (.fbo a d) [0, 1, 2] false

/-- R620, R621: CALL, and JMPL to a multiple of 4. The link is the address of the instruction itself, and JMPL computes
its target before it writes the link. -/
def Obligations.CallAndJump : Prop :=
  ∀ (s : State) (rd rs1 : Reg) (op2 : Op2) (d : BitVec 30), s.Shaped →
    let goes := fun (i : Instr) (link : Reg) (target : Word) => Gives (exec i s) fun t =>
      s.WritesX link s.pc t ∧ t.pc = s.npc ∧ t.npc = target ∧ Quietly t ∧ s.KeptBut t [.integers, .counters]
    goes (.call d) 15 (s.pc + BitVec.ofNat 32 (4 * d.toNat)) ∧
    ((s.x rs1 + s.operand op2).toNat % 4 = 0 → goes (.jmpl rd rs1 op2) rd (s.x rs1 + s.operand op2))

/-- R642, 60_exceptions R1014: RETT with traps disabled, in supervisor mode, into a valid window and to a multiple of 4.
The target is read in the old window; ps keeps its value. -/
def Obligations.ReturnFromTrap : Prop :=
  ∀ (s : State) (rs1 : Reg) (op2 : Op2),
    let new := (s.window + 1) % s.cfg.nwindows
    let target := s.x rs1 + s.operand op2
    s.Shaped → Psr.et s.psr = false → Psr.s s.psr = true → s.wim.getLsbD new = false → target.toNat % 4 = 0 →
      Gives (exec (.rett rs1 op2) s) fun t =>
        castToPSR t.psr = { castToPSR s.psr with
          et := true, s := (castToPSR s.psr).ps, cwp := BitVec.ofNat 5 new } ∧
        t.pc = s.npc ∧ t.npc = target ∧ Quietly t ∧ s.KeptBut t [.counters, .psr]

/-- R642: what RETT checks, in its order. With psr.et = 1 it is privileged_instruction in user mode and illegal in
supervisor mode; with psr.et = 0 each of its three conditions enters error mode. -/
def Obligations.ReturnFromTrapChecks : Prop :=
  ∀ (s : State) (rs1 : Reg) (op2 : Op2), s.Shaped →
    let new := (s.window + 1) % s.cfg.nwindows
    let r := exec (.rett rs1 op2) s
    (Psr.s s.psr = false → Traps 0x03 s.fsr s r) ∧
    (Psr.s s.psr = true → Psr.et s.psr = true → r = .fault (.illegalInstruction s.fetchAddr s.fetchWord)) ∧
    (Psr.s s.psr = true → Psr.et s.psr = false →
      (s.wim.getLsbD new = true → Gives r (ErrorModeEntered 0x06 s.fsr s)) ∧
      (s.wim.getLsbD new = false → (s.x rs1 + s.operand op2).toNat % 4 ≠ 0 →
        Gives r (ErrorModeEntered 0x07 s.fsr s)))

/-! ### Windows and state registers (43_window_and_state) -/

/-- R700, R701: SAVE and RESTORE into a valid window. The sum is read in the old window and written in the new one. -/
def Obligations.SaveAndRestore : Prop :=
  ∀ (s : State) (rd rs1 : Reg) (op2 : Op2), s.Shaped →
    let moves := fun (i : Instr) (new : Nat) => s.wim.getLsbD new = false → Gives (exec i s) fun t =>
      t.window = new ∧ castToPSR t.psr = { castToPSR s.psr with cwp := BitVec.ofNat 5 new } ∧
        t.x rd = (if rd = 0 then 0 else s.x rs1 + s.operand op2) ∧ s.SlotsKeptBut t new [rd] ∧
        s.Advanced t ∧ Quietly t ∧ s.KeptBut t [.integers, .counters, .psr]
    moves (.save rd rs1 op2) ((s.window + s.cfg.nwindows - 1) % s.cfg.nwindows) ∧
    moves (.restore rd rs1 op2) ((s.window + 1) % s.cfg.nwindows)

/-- R700, R701, R711 to R713, R721 to R723, 60_exceptions R1020: SAVE and RESTORE into a window that WIM marks trap, and so
do the six privileged register instructions in user mode, whatever they would write. None of them writes anything else. -/
def Obligations.WindowAndPrivilegeTraps : Prop :=
  ∀ (s : State) (rd rs1 : Reg) (op2 : Op2), s.Shaped →
    let raises := fun (tt : BitVec 8) (i : Instr) => Traps tt s.fsr s (exec i s)
    (s.wim.getLsbD ((s.window + s.cfg.nwindows - 1) % s.cfg.nwindows) = true → raises 0x05 (.save rd rs1 op2)) ∧
    (s.wim.getLsbD ((s.window + 1) % s.cfg.nwindows) = true → raises 0x06 (.restore rd rs1 op2)) ∧
    (Psr.s s.psr = false →
      raises 0x03 (.rdpsr rd) ∧ raises 0x03 (.rdwim rd) ∧ raises 0x03 (.rdtbr rd) ∧ raises 0x03 (.wrpsr rs1 op2) ∧
      raises 0x03 (.wrwim rs1 op2) ∧ raises 0x03 (.wrtbr rs1 op2))

/-- 10_state R102, R105: x[0] reads zero and discards writes, for instructions and for the host; the outs of a window are
the ins of the window before it and its locals are its own; so after a SAVE the caller's outs are the callee's ins, but
for one the SAVE itself writes. -/
def Obligations.WindowsOverlap : Prop :=
  (∀ (s : State) (win : Nat) (v : Word),
    s.xIn win 0 = 0 ∧ s.setXIn win 0 v = s ∧ s.get "g0" = .ok 0 ∧ s.set "g0" v = .ok s) ∧
  (∀ (nw w w' : Nat) (k : Fin 8) (r : Reg), 2 ≤ nw → nw ≤ 32 → w < nw → w' < nw →
    resolve nw w (BitVec.ofNat 5 (8 + k.val)) = resolve nw ((w + nw - 1) % nw) (BitVec.ofNat 5 (24 + k.val)) ∧
    (resolve nw w (BitVec.ofNat 5 (16 + k.val)) = resolve nw w' r → w' = w ∧ r = BitVec.ofNat 5 (16 + k.val))) ∧
  ∀ (s t : State) (rd rs1 : Reg) (op2 : Op2) (k : Fin 8), s.Shaped →
    s.wim.getLsbD ((s.window + s.cfg.nwindows - 1) % s.cfg.nwindows) = false → exec (.save rd rs1 op2) s = .next t →
      t.window = (s.window + s.cfg.nwindows - 1) % s.cfg.nwindows ∧
      (rd ≠ BitVec.ofNat 5 (24 + k.val) → t.x (BitVec.ofNat 5 (24 + k.val)) = s.x (BitVec.ofNat 5 (8 + k.val)))

/-- R710 to R713: the state registers are read whole, the PSR, WIM and TBR in supervisor mode. -/
def Obligations.StateRegisterReads : Prop :=
  ∀ (s : State) (rd : Reg), s.Shaped →
    let gets := fun (i : Instr) (v : Word) => Gives (exec i s) fun t =>
      s.WritesX rd v t ∧ s.Advanced t ∧ Quietly t ∧ s.KeptBut t [.integers, .counters]
    gets (.rdy rd) s.y ∧
    (Psr.s s.psr = true → gets (.rdpsr rd) s.psr ∧ gets (.rdwim rd) s.wim ∧ gets (.rdtbr rd) s.tbr)

/-- R720 to R723 with R702: the exclusive or of the operands is written to y, to every PSR field but impl and ver, to the
bits of WIM that stand for a window, or to tba; a privileged write in supervisor mode. -/
def Obligations.StateRegisterWrites : Prop :=
  ∀ (s : State) (rs1 : Reg) (op2 : Op2),
    let v := s.x rs1 ^^^ s.operand op2
    let done := fun (t : State) (p : Part) => s.Advanced t ∧ Quietly t ∧ s.KeptBut t [.counters, p]
    Gives (exec (.wry rs1 op2) s) (fun t => t.y = v ∧ done t .y) ∧
    (Psr.s s.psr = true →
      ((castToPSR v).cwp.toNat < s.cfg.nwindows → Gives (exec (.wrpsr rs1 op2) s) fun t =>
        castToPSR t.psr = { castToPSR v with impl := (castToPSR s.psr).impl, ver := (castToPSR s.psr).ver } ∧
          done t .psr) ∧
      Gives (exec (.wrwim rs1 op2) s) (fun t =>
        (∀ j < 32, t.wim.getLsbD j = (v.getLsbD j && decide (j < s.cfg.nwindows))) ∧ done t .wim) ∧
      Gives (exec (.wrtbr rs1 op2) s) (fun t =>
        Tbr.tba t.tbr = v.extractLsb' 12 20 ∧ Tbr.tt t.tbr = Tbr.tt s.tbr ∧ Tbr.zero t.tbr = Tbr.zero s.tbr ∧
          done t .tbr))

/-- 30_encoding R331: the field values that are illegal. An odd register of a pair comes before every trap, and a cwp of
NWINDOWS or more in WRPSR after the privilege check. -/
def Obligations.IllegalFields : Prop :=
  ∀ (s : State) (rd rs1 rs2 : Reg) (op2 : Op2) (imm22 : BitVec 22),
    let stops := fun (i : Instr) => exec i s = .fault (.illegalInstruction s.fetchAddr s.fetchWord)
    stops (.unimp imm22) ∧
    (rd.toNat % 2 = 1 →
      stops (.ldd rd rs1 op2) ∧ stops (.std rd rs1 op2) ∧ stops (.lddf rd rs1 op2) ∧ stops (.stdf rd rs1 op2) ∧
      stops (.fsmuld rd rs1 rs2) ∧ stops (.fitod rd rs2) ∧ stops (.fstod rd rs2)) ∧
    (rs2.toNat % 2 = 1 → stops (.fdtos rd rs2) ∧ stops (.fdtoi rd rs2)) ∧
    (rd.toNat % 2 = 1 ∨ rs2.toNat % 2 = 1 → stops (.fsqrtd rd rs2)) ∧
    (rs1.toNat % 2 = 1 ∨ rs2.toNat % 2 = 1 → stops (.fcmpd rs1 rs2) ∧ stops (.fcmped rs1 rs2)) ∧
    (rd.toNat % 2 = 1 ∨ rs1.toNat % 2 = 1 ∨ rs2.toNat % 2 = 1 →
      stops (.faddd rd rs1 rs2) ∧ stops (.fsubd rd rs1 rs2) ∧ stops (.fmuld rd rs1 rs2) ∧ stops (.fdivd rd rs1 rs2)) ∧
    (Psr.s s.psr = true → s.cfg.nwindows ≤ (castToPSR (s.x rs1 ^^^ s.operand op2)).cwp.toNat →
      stops (.wrpsr rs1 op2))

/-! ### Loads and stores (44_load_store) -/

/-- R800, R805 to R810, 20_memory R207, R210: the integer loads, big-endian. LDD writes the word at the lower address to
the even register. Nothing is allocated. -/
def Obligations.IntegerLoads : Prop :=
  ∀ (s : State) (rd rs1 : Reg) (op2 : Op2), s.Shaped →
    let ea := s.x rs1 + s.operand op2
    let byte := fun (k : Word) => s.mem.byte (ea + k)
    let word := fun (k : Word) => byte k ++ byte (k + 1) ++ byte (k + 2) ++ byte (k + 3)
    let gets := fun (i : Instr) (v : Word) => Gives (exec i s) fun t =>
      s.WritesX rd v t ∧ s.Advanced t ∧ Quietly t ∧ s.KeptBut t [.integers, .counters]
    gets (.ldsb rd rs1 op2) ((byte 0).signExtend 32) ∧ gets (.ldub rd rs1 op2) ((byte 0).zeroExtend 32) ∧
    (ea.toNat % 2 = 0 →
      gets (.ldsh rd rs1 op2) ((byte 0 ++ byte 1).signExtend 32) ∧
      gets (.lduh rd rs1 op2) ((byte 0 ++ byte 1).zeroExtend 32)) ∧
    (ea.toNat % 4 = 0 → gets (.ld rd rs1 op2) (word 0)) ∧
    (ea.toNat % 8 = 0 → rd.toNat % 2 = 0 → Gives (exec (.ldd rd rs1 op2) s) fun t =>
      t.x rd = (if rd = 0 then 0 else word 0) ∧ t.x (rd + 1) = word 4 ∧ s.SlotsKeptBut t s.window [rd, rd + 1] ∧
        s.Advanced t ∧ Quietly t ∧ s.KeptBut t [.integers, .counters])

/-- R811 to R814, R824 to R826, 20_memory R207, R211: the stores, big-endian, where the page exists or can be made; the
floating-point ones with the FPU enabled. STFSR stores all 32 bits and changes none. -/
def Obligations.Stores : Prop :=
  ∀ (s : State) (rd rs1 : Reg) (op2 : Op2),
    let ea := s.x rs1 + s.operand op2
    let word := fun (v : Word) => [v.extractLsb' 24 8, v.extractLsb' 16 8, v.extractLsb' 8 8, v.extractLsb' 0 8]
    let stores := fun (i : Instr) (bytes : List Byte) =>
      Gives (exec i s) fun t => s.Stores ea bytes t ∧ s.KeptBut t [.counters, .memory]
    s.Allocatable ea →
      stores (.stb rd rs1 op2) [(s.x rd).extractLsb' 0 8] ∧
      (ea.toNat % 2 = 0 → stores (.sth rd rs1 op2) [(s.x rd).extractLsb' 8 8, (s.x rd).extractLsb' 0 8]) ∧
      (ea.toNat % 4 = 0 → stores (.st rd rs1 op2) (word (s.x rd))) ∧
      (ea.toNat % 8 = 0 → rd.toNat % 2 = 0 → stores (.std rd rs1 op2) (word (s.x rd) ++ word (s.x (rd + 1)))) ∧
      (Psr.ef s.psr = true →
        (ea.toNat % 4 = 0 → stores (.stf rd rs1 op2) (word (s.fr rd)) ∧ stores (.stfsr rs1 op2) (word s.fsr)) ∧
        (ea.toNat % 8 = 0 → rd.toNat % 2 = 0 →
          stores (.stdf rd rs1 op2) (word (s.fr rd) ++ word (s.fr (rd + 1)))))

/-- R815, R816: LDSTUB and SWAP. The old memory goes to x[rd] and the old x[rd] of SWAP to memory. -/
def Obligations.AtomicAccess : Prop :=
  ∀ (s : State) (rd rs1 : Reg) (op2 : Op2), s.Shaped →
    let ea := s.x rs1 + s.operand op2
    let v := s.x rd
    let does := fun (i : Instr) (loaded : Word) (bytes : List Byte) => Gives (exec i s) fun t =>
      s.WritesX rd loaded t ∧ s.Stores ea bytes t ∧ s.KeptBut t [.integers, .counters, .memory]
    s.Allocatable ea →
      does (.ldstub rd rs1 op2) ((s.mem.byte ea).zeroExtend 32) [0xFF] ∧
      (ea.toNat % 4 = 0 → does (.swap rd rs1 op2)
        (s.mem.byte ea ++ s.mem.byte (ea + 1) ++ s.mem.byte (ea + 2) ++ s.mem.byte (ea + 3))
        [v.extractLsb' 24 8, v.extractLsb' 16 8, v.extractLsb' 8 8, v.extractLsb' 0 8])

/-- R821 to R823: the floating-point loads with the FPU enabled. LDFSR loads every field but ver, ftt and qne. -/
def Obligations.FloatLoads : Prop :=
  ∀ (s : State) (rd rs1 : Reg) (op2 : Op2), Psr.ef s.psr = true →
    let ea := s.x rs1 + s.operand op2
    let byte := fun (k : Word) => s.mem.byte (ea + k)
    let word := fun (k : Word) => byte k ++ byte (k + 1) ++ byte (k + 2) ++ byte (k + 3)
    let done := fun (t : State) (p : Part) => s.Advanced t ∧ Quietly t ∧ s.KeptBut t [p, .counters]
    (ea.toNat % 4 = 0 → Gives (exec (.ldf rd rs1 op2) s) fun t => s.WritesF rd (word 0) t ∧ done t .floats) ∧
    (ea.toNat % 8 = 0 → rd.toNat % 2 = 0 →
      Gives (exec (.lddf rd rs1 op2) s) fun t => s.WritesFd rd (word 0 ++ word 4) t ∧ done t .floats) ∧
    (ea.toNat % 4 = 0 → Gives (exec (.ldfsr rs1 op2) s) fun t =>
      castToFSR t.fsr = { castToFSR (word 0) with
        ver := (castToFSR s.fsr).ver, ftt := (castToFSR s.fsr).ftt, qne := (castToFSR s.fsr).qne } ∧ done t .fsr)

/-- R801, R802, 42_control_transfer R621: a misaligned access or jump target traps before it reaches memory or a
register: after the register-pair check and the FPU enable. -/
def Obligations.MisalignedTraps : Prop :=
  ∀ (s : State) (rd rs1 : Reg) (op2 : Op2), s.Shaped →
    let ea := s.x rs1 + s.operand op2
    let raises := fun (i : Instr) => Traps 0x07 s.fsr s (exec i s)
    (ea.toNat % 2 ≠ 0 → raises (.ldsh rd rs1 op2) ∧ raises (.lduh rd rs1 op2) ∧ raises (.sth rd rs1 op2)) ∧
    (ea.toNat % 4 ≠ 0 → raises (.ld rd rs1 op2) ∧ raises (.st rd rs1 op2) ∧ raises (.swap rd rs1 op2) ∧
      raises (.jmpl rd rs1 op2)) ∧
    (ea.toNat % 8 ≠ 0 → rd.toNat % 2 = 0 → raises (.ldd rd rs1 op2) ∧ raises (.std rd rs1 op2)) ∧
    (Psr.ef s.psr = true →
      (ea.toNat % 4 ≠ 0 → raises (.ldf rd rs1 op2) ∧ raises (.stf rd rs1 op2) ∧ raises (.ldfsr rs1 op2) ∧
        raises (.stfsr rs1 op2)) ∧
      (ea.toNat % 8 ≠ 0 → rd.toNat % 2 = 0 → raises (.lddf rd rs1 op2) ∧ raises (.stdf rd rs1 op2)))

/-- 20_memory R205: `ensure` fails at the second level before it looks at the page, changes nothing when it fails, and
otherwise makes exactly the page of the address exist; no byte changes, and a page that was not owned before holds zero in
every byte. Every write makes the page of its address exist first, or fails as `ensure` does. -/
def Obligations.EnsureIsAtomic : Prop :=
  ∀ (c : Config) (m : Memory) (a : Word),
    let root := a.toNat / 2 ^ (32 - c.rootBits)
    let page := a.toNat / 2 ^ c.pageBits
    let noTable := root ∉ m.l2 ∧ c.l2Capacity = some m.l2.length
    let noPage := page ∉ m.pages ∧ c.pageCapacity = some m.pages.length
    (noTable → m.ensure c a = .error .secondLevel) ∧
    (¬noTable → noPage → m.ensure c a = .error .page) ∧
    (¬noTable → ¬noPage → ∃ m', m.ensure c a = .ok m' ∧ (∀ b, m'.byte b = m.byte b) ∧
      (∀ n, n ∈ m'.l2 ↔ n = root ∨ n ∈ m.l2) ∧ (∀ n, n ∈ m'.pages ↔ n = page ∨ n ∈ m.pages) ∧
      m'.l2.length = m.l2.length + (if root ∈ m.l2 then 0 else 1) ∧
      m'.pages.length = m.pages.length + (if page ∈ m.pages then 0 else 1) ∧
      (m.Allocated c → page ∉ m.pages → ∀ b : Word, b.toNat / 2 ^ c.pageBits = page → m'.byte b = 0) ∧
      ∀ bytes, ∃ w, m.write c a bytes = .ok w ∧ w.l2 = m'.l2 ∧ w.pages = m'.pages) ∧
    ∀ level, m.ensure c a = .error level → ∀ bytes, m.write c a bytes = .error level

/-- 40_execution_engine R419: a store whose page cannot be allocated ends with AllocationFailed at the level that failed,
and with no state change: LDSTUB and SWAP do not write x[rd] either. -/
def Obligations.AllocationFailureStops : Prop :=
  ∀ (s : State) (rd rs1 : Reg) (op2 : Op2) (level : AllocLevel),
    let ea := s.x rs1 + s.operand op2
    let stops := fun (i : Instr) => exec i s = .fault (.allocationFailed level)
    s.mem.ensure s.cfg ea = .error level →
      stops (.stb rd rs1 op2) ∧ stops (.ldstub rd rs1 op2) ∧
      (ea.toNat % 2 = 0 → stops (.sth rd rs1 op2)) ∧
      (ea.toNat % 4 = 0 → stops (.st rd rs1 op2) ∧ stops (.swap rd rs1 op2)) ∧
      (ea.toNat % 8 = 0 → rd.toNat % 2 = 0 → stops (.std rd rs1 op2)) ∧
      (Psr.ef s.psr = true →
        (ea.toNat % 4 = 0 → stops (.stf rd rs1 op2) ∧ stops (.stfsr rs1 op2)) ∧
        (ea.toNat % 8 = 0 → rd.toNat % 2 = 0 → stops (.stdf rd rs1 op2)))

/-! ### Floating point (45_floating_point) -/

/-- R900, 44_load_store R820, 42_control_transfer R610: with the FPU disabled every floating-point instruction raises
fp_disabled and writes nothing. The register-pair check comes first, so a double-precision register field of the
instruction must be even, and no other field. -/
def Obligations.FloatDisabledTraps : Prop :=
  ∀ (s : State) (rd rs1 rs2 : Reg) (op2 : Op2) (a : Bool) (d : BitVec 22) (opf : BitVec 9),
    s.Shaped → Psr.ef s.psr = false →
    let raises := fun (i : Instr) => Traps 0x04 s.fsr s (exec i s)
    (∀ i ∈ [Instr.fba a d, .fbn a d, .fbu a d, .fbg a d, .fbug a d, .fbl a d, .fbul a d, .fblg a d, .fbne a d,
      .fbe a d, .fbue a d, .fbge a d, .fbuge a d, .fble a d, .fbule a d, .fbo a d], raises i) ∧
    (∀ i ∈ [Instr.ldf rd rs1 op2, .ldfsr rs1 op2, .stf rd rs1 op2, .stfsr rs1 op2], raises i) ∧
    (∀ i ∈ [Instr.fmovs rd rs2, .fnegs rd rs2, .fabss rd rs2, .fsqrts rd rs2, .fadds rd rs1 rs2, .fsubs rd rs1 rs2,
      .fmuls rd rs1 rs2, .fdivs rd rs1 rs2, .fitos rd rs2, .fstoi rd rs2, .fcmps rs1 rs2, .fcmpes rs1 rs2,
      .fpop1Unimplemented rd rs1 opf rs2, .fpop2Unimplemented rd rs1 opf rs2], raises i) ∧
    (rd.toNat % 2 = 0 →
      ∀ i ∈ [Instr.lddf rd rs1 op2, .stdf rd rs1 op2, .fsmuld rd rs1 rs2, .fitod rd rs2, .fstod rd rs2], raises i) ∧
    (rs2.toNat % 2 = 0 → ∀ i ∈ [Instr.fdtos rd rs2, .fdtoi rd rs2], raises i) ∧
    (rd.toNat % 2 = 0 → rs2.toNat % 2 = 0 → raises (.fsqrtd rd rs2)) ∧
    (rs1.toNat % 2 = 0 → rs2.toNat % 2 = 0 → ∀ i ∈ [Instr.fcmpd rs1 rs2, .fcmped rs1 rs2], raises i) ∧
    (rd.toNat % 2 = 0 → rs1.toNat % 2 = 0 → rs2.toNat % 2 = 0 →
      ∀ i ∈ [Instr.faddd rd rs1 rs2, .fsubd rd rs1 rs2, .fmuld rd rs1 rs2, .fdivd rd rs1 rs2], raises i)

/-- R910 to R912, R905: FMOVs, FNEGs and FABSs touch the sign bit alone, and raise no exception whatever tem is. -/
def Obligations.FloatMoves : Prop :=
  ∀ (s : State) (rd rs2 : Reg), Psr.ef s.psr = true →
    let v := s.fr rs2
    let gets := fun (i : Instr) (sign : Bool) => Gives (exec i s) fun t =>
      s.WritesF rd (BitVec.ofBool sign ++ v.extractLsb' 0 31) t ∧
        castToFSR t.fsr = { castToFSR s.fsr with cexc := 0, ftt := 0 } ∧
        s.Advanced t ∧ Quietly t ∧ s.KeptBut t [.floats, .fsr, .counters]
    gets (.fmovs rd rs2) v.msb ∧ gets (.fnegs rd rs2) (!v.msb) ∧ gets (.fabss rd rs2) false

/-- R902, R905, R913 to R929: the arithmetic FPops with a single or an integer result, when no enabled exception is met:
the result of FPU_ARITH under the parameters, and the FSR fields of R905. -/
def Obligations.FloatSingleResults : Prop :=
  ∀ (s : State) (rd rs1 rs2 : Reg), Psr.ef s.psr = true →
    let single := fun (r : Reg) => (s.fr r).zeroExtend 64
    let double := fun (r : Reg) => s.fr r ++ s.fr (r + 1)
    let gets := fun (i : Instr) (op : FpOp) (a b : BitVec 64) =>
      let r := fpuCompute s.cfg op a b (castToFSR s.fsr).rd (castToFSR s.fsr).ns
      r.2 &&& (castToFSR s.fsr).tem = 0 → Gives (exec i s) fun t =>
        s.WritesF rd (r.1.extractLsb' 0 32) t ∧
          castToFSR t.fsr = { castToFSR s.fsr with cexc := r.2, aexc := (castToFSR s.fsr).aexc ||| r.2, ftt := 0 } ∧
          s.Advanced t ∧ Quietly t ∧ s.KeptBut t [.floats, .fsr, .counters]
    gets (.fadds rd rs1 rs2) .addS (single rs1) (single rs2) ∧
    gets (.fsubs rd rs1 rs2) .subS (single rs1) (single rs2) ∧
    gets (.fmuls rd rs1 rs2) .mulS (single rs1) (single rs2) ∧
    gets (.fdivs rd rs1 rs2) .divS (single rs1) (single rs2) ∧
    gets (.fsqrts rd rs2) .sqrtS 0 (single rs2) ∧ gets (.fitos rd rs2) .itos 0 (single rs2) ∧
    gets (.fstoi rd rs2) .stoi 0 (single rs2) ∧
    (rs2.toNat % 2 = 0 →
      gets (.fdtos rd rs2) .dtos 0 (double rs2) ∧ gets (.fdtoi rd rs2) .dtoi 0 (double rs2))

/-- R902, R905, R914 to R927: the arithmetic FPops with a double result, when no enabled exception is met. -/
def Obligations.FloatDoubleResults : Prop :=
  ∀ (s : State) (rd rs1 rs2 : Reg), Psr.ef s.psr = true → rd.toNat % 2 = 0 →
    let single := fun (r : Reg) => (s.fr r).zeroExtend 64
    let double := fun (r : Reg) => s.fr r ++ s.fr (r + 1)
    let gets := fun (i : Instr) (op : FpOp) (a b : BitVec 64) =>
      let r := fpuCompute s.cfg op a b (castToFSR s.fsr).rd (castToFSR s.fsr).ns
      r.2 &&& (castToFSR s.fsr).tem = 0 → Gives (exec i s) fun t =>
        s.WritesFd rd r.1 t ∧
          castToFSR t.fsr = { castToFSR s.fsr with cexc := r.2, aexc := (castToFSR s.fsr).aexc ||| r.2, ftt := 0 } ∧
          s.Advanced t ∧ Quietly t ∧ s.KeptBut t [.floats, .fsr, .counters]
    gets (.fsmuld rd rs1 rs2) .smuld (single rs1) (single rs2) ∧ gets (.fitod rd rs2) .itod 0 (single rs2) ∧
    gets (.fstod rd rs2) .stod 0 (single rs2) ∧
    (rs2.toNat % 2 = 0 → gets (.fsqrtd rd rs2) .sqrtD 0 (double rs2)) ∧
    (rs1.toNat % 2 = 0 → rs2.toNat % 2 = 0 →
      gets (.faddd rd rs1 rs2) .addD (double rs1) (double rs2) ∧
      gets (.fsubd rd rs1 rs2) .subD (double rs1) (double rs2) ∧
      gets (.fmuld rd rs1 rs2) .mulD (double rs1) (double rs2) ∧
      gets (.fdivd rd rs1 rs2) .divD (double rs1) (double rs2))

/-- R902, R930 to R933: the compares when no enabled exception is met: fcc, cexc, aexc and ftt, and no f register. -/
def Obligations.FloatCompares : Prop :=
  ∀ (s : State) (rs1 rs2 : Reg), Psr.ef s.psr = true →
    let gets := fun (i : Instr) (r : BitVec 2 × BitVec 5) =>
      r.2 &&& (castToFSR s.fsr).tem = 0 → Gives (exec i s) fun t =>
        castToFSR t.fsr = { castToFSR s.fsr with
          fcc := r.1, cexc := r.2, aexc := (castToFSR s.fsr).aexc ||| r.2, ftt := 0 } ∧
          s.Advanced t ∧ Quietly t ∧ s.KeptBut t [.fsr, .counters]
    gets (.fcmps rs1 rs2) (fcompareS (s.fr rs1) (s.fr rs2) false) ∧
    gets (.fcmpes rs1 rs2) (fcompareS (s.fr rs1) (s.fr rs2) true) ∧
    (rs1.toNat % 2 = 0 → rs2.toNat % 2 = 0 →
      gets (.fcmpd rs1 rs2) (fcompareD (s.fr rs1 ++ s.fr (rs1 + 1)) (s.fr rs2 ++ s.fr (rs2 + 1)) false) ∧
      gets (.fcmped rs1 rs2) (fcompareD (s.fr rs1 ++ s.fr (rs1 + 1)) (s.fr rs2 ++ s.fr (rs2 + 1)) true))

/-- R901, R902: fp_exception. An enabled exception writes cexc and ftt = 1, an unimplemented FPop ftt = 3, and nothing
else of the instruction is written: no f register, no fcc and no aexc. FiTOd meets no exception in the reference
configuration (IntegersAreExactInDouble). -/
def Obligations.FloatExceptionTraps : Prop :=
  ∀ (s : State) (rd rs1 rs2 : Reg) (opf : BitVec 9), s.Shaped → Psr.ef s.psr = true →
    let single := fun (r : Reg) => (s.fr r).zeroExtend 64
    let double := fun (r : Reg) => s.fr r ++ s.fr (r + 1)
    let raises := fun (i : Instr) (exc : BitVec 5) => exc &&& (castToFSR s.fsr).tem ≠ 0 →
      Traps 0x08 (packFSR { castToFSR s.fsr with cexc := exc, ftt := 1 }) s (exec i s)
    let exc := fun (op : FpOp) (a b : BitVec 64) =>
      (fpuCompute s.cfg op a b (castToFSR s.fsr).rd (castToFSR s.fsr).ns).2
    let unimplemented := fun (i : Instr) => Traps 0x08 (packFSR { castToFSR s.fsr with ftt := 3 }) s (exec i s)
    unimplemented (.fpop1Unimplemented rd rs1 opf rs2) ∧ unimplemented (.fpop2Unimplemented rd rs1 opf rs2) ∧
    raises (.fadds rd rs1 rs2) (exc .addS (single rs1) (single rs2)) ∧
    raises (.fsubs rd rs1 rs2) (exc .subS (single rs1) (single rs2)) ∧
    raises (.fmuls rd rs1 rs2) (exc .mulS (single rs1) (single rs2)) ∧
    raises (.fdivs rd rs1 rs2) (exc .divS (single rs1) (single rs2)) ∧
    raises (.fsqrts rd rs2) (exc .sqrtS 0 (single rs2)) ∧ raises (.fitos rd rs2) (exc .itos 0 (single rs2)) ∧
    raises (.fstoi rd rs2) (exc .stoi 0 (single rs2)) ∧
    raises (.fcmps rs1 rs2) (fcompareS (s.fr rs1) (s.fr rs2) false).2 ∧
    raises (.fcmpes rs1 rs2) (fcompareS (s.fr rs1) (s.fr rs2) true).2 ∧
    (rs2.toNat % 2 = 0 → raises (.fdtos rd rs2) (exc .dtos 0 (double rs2)) ∧
      raises (.fdtoi rd rs2) (exc .dtoi 0 (double rs2))) ∧
    (rd.toNat % 2 = 0 → raises (.fsmuld rd rs1 rs2) (exc .smuld (single rs1) (single rs2)) ∧
      raises (.fstod rd rs2) (exc .stod 0 (single rs2))) ∧
    (rd.toNat % 2 = 0 → rs2.toNat % 2 = 0 → raises (.fsqrtd rd rs2) (exc .sqrtD 0 (double rs2))) ∧
    (rs1.toNat % 2 = 0 → rs2.toNat % 2 = 0 →
      raises (.fcmpd rs1 rs2) (fcompareD (double rs1) (double rs2) false).2 ∧
      raises (.fcmped rs1 rs2) (fcompareD (double rs1) (double rs2) true).2) ∧
    (rd.toNat % 2 = 0 → rs1.toNat % 2 = 0 → rs2.toNat % 2 = 0 →
      raises (.faddd rd rs1 rs2) (exc .addD (double rs1) (double rs2)) ∧
      raises (.fsubd rd rs1 rs2) (exc .subD (double rs1) (double rs2)) ∧
      raises (.fmuld rd rs1 rs2) (exc .mulD (double rs1) (double rs2)) ∧
      raises (.fdivd rd rs1 rs2) (exc .divD (double rs1) (double rs2)))

/-- R940: the compare function against the values that the bits stand for: numbers are compared as reals (here scaled by
the weight of the smallest subnormal), infinities as usual, and a NaN is unordered, with nv for a signaling one. -/
def Obligations.CompareFunction : Prop :=
  (∀ (a b : Word) (q : Bool),
    let x := binary32.unpack (a.zeroExtend 64)
    let y := binary32.unpack (b.zeroExtend 64)
    let nan := fun (v : Word) => v.extractLsb' 23 8 = 0xFF ∧ v.extractLsb' 0 23 ≠ 0
    let signaling := fun (v : Word) => nan v ∧ v.getLsbD 22 = false
    let scaled := fun (m : Nat) (e : Int) => m * 2 ^ (e + 149).toNat
    (∀ na ma ea nb mb eb, x = .fin na ma ea → y = .fin nb mb eb →
      let u := signedInt na (scaled ma ea)
      let v := signedInt nb (scaled mb eb)
      fcompareS a b q = (if u = v then 0 else if u < v then 1 else 2, 0)) ∧
    (∀ na nb mb eb, x = .inf na → y = .fin nb mb eb → fcompareS a b q = (if na then 1 else 2, 0)) ∧
    (∀ na ma ea nb, x = .fin na ma ea → y = .inf nb → fcompareS a b q = (if nb then 2 else 1, 0)) ∧
    (∀ na nb, x = .inf na → y = .inf nb → fcompareS a b q = (if na = nb then 0 else if na then 1 else 2, 0)) ∧
    (nan a ∨ nan b → fcompareS a b q = (3, if q = true ∨ signaling a ∨ signaling b then 0x10 else 0))) ∧
  ∀ (a b : BitVec 64) (q : Bool),
    let x := binary64.unpack a
    let y := binary64.unpack b
    let nan := fun (v : BitVec 64) => v.extractLsb' 52 11 = 0x7FF ∧ v.extractLsb' 0 52 ≠ 0
    let signaling := fun (v : BitVec 64) => nan v ∧ v.getLsbD 51 = false
    let scaled := fun (m : Nat) (e : Int) => m * 2 ^ (e + 1074).toNat
    (∀ na ma ea nb mb eb, x = .fin na ma ea → y = .fin nb mb eb →
      let u := signedInt na (scaled ma ea)
      let v := signedInt nb (scaled mb eb)
      fcompareD a b q = (if u = v then 0 else if u < v then 1 else 2, 0)) ∧
    (∀ na nb mb eb, x = .inf na → y = .fin nb mb eb → fcompareD a b q = (if na then 1 else 2, 0)) ∧
    (∀ na ma ea nb, x = .fin na ma ea → y = .inf nb → fcompareD a b q = (if nb then 2 else 1, 0)) ∧
    (∀ na nb, x = .inf na → y = .inf nb → fcompareD a b q = (if na = nb then 0 else if na then 1 else 2, 0)) ∧
    (nan a ∨ nan b → fcompareD a b q = (3, if q = true ∨ signaling a ∨ signaling b then 0x10 else 0))

/-- R903 under the reference configuration: a NaN operand of an operation within one format is quieted and returned, the
NaN of rs2 before that of rs1, and nv is set for a signaling one. The square root has the operand of rs2 alone. An
invalid operation with no NaN operand gives the default NaN, with nv: inf - inf, 0 * inf, 0 / 0, inf / inf, and the square
root of a negative number other than -0. -/
def Obligations.NanOperands : Prop :=
  (∀ op ∈ [FpOp.addS, .subS, .mulS, .divS, .sqrtS], ∀ (a b : Word) (rd : BitVec 2),
    let nan := fun (v : Word) => decide (0x7F800000 < v.toNat % 2 ^ 31)
    let signaling := fun (v : Word) => nan v && !v.getLsbD 22
    let r := fpReference .sparcV8 op (a.zeroExtend 64) (b.zeroExtend 64) rd
    let exc := if (signaling a || signaling b) = true then 0x10 else 0
    (op = .sqrtS → a = 0) →
      (nan b = true → r = ((b ||| 0x00400000).zeroExtend 64, exc)) ∧
      (nan b = false → nan a = true → r = ((a ||| 0x00400000).zeroExtend 64, exc))) ∧
  (∀ op ∈ [FpOp.addD, .subD, .mulD, .divD, .sqrtD], ∀ (a b : BitVec 64) (rd : BitVec 2),
    let nan := fun (v : BitVec 64) => decide (0x7FF0000000000000 < v.toNat % 2 ^ 63)
    let signaling := fun (v : BitVec 64) => nan v && !v.getLsbD 51
    let r := fpReference .sparcV8 op a b rd
    let exc := if (signaling a || signaling b) = true then 0x10 else 0
    (op = .sqrtD → a = 0) →
      (nan b = true → r = (b ||| 0x0008000000000000, exc)) ∧
      (nan b = false → nan a = true → r = (a ||| 0x0008000000000000, exc))) ∧
  ∀ (double : Bool) (a b : BitVec 64) (rd : BitVec 2),
    let f := if double then binary64 else binary32
    let nan : BitVec 64 := if double then 0x7FFFFFFFFFFFFFFF else 0x7FFFFFFF
    let invalid := fun (op : FpOp) => fpReference .sparcV8 op a b rd = (nan, 0x10)
    let zero := fun (d : Datum) => ∃ n e, d = .fin n 0 e
    let inf := fun (d : Datum) => ∃ n, d = .inf n
    let x := f.unpack a
    let y := f.unpack b
    (∀ n, x = .inf n → y = .inf !n → invalid (if double then .addD else .addS)) ∧
    (∀ n, x = .inf n → y = .inf n → invalid (if double then .subD else .subS)) ∧
    (zero x ∧ inf y ∨ inf x ∧ zero y → invalid (if double then .mulD else .mulS)) ∧
    (zero x ∧ zero y ∨ inf x ∧ inf y → invalid (if double then .divD else .divS)) ∧
    (a = 0 → y = .inf true ∨ (∃ m e, m ≠ 0 ∧ y = .fin true m e) → invalid (if double then .sqrtD else .sqrtS))

/-- R903, 10_state R121, R122: what rounding and the arithmetic of one format give. Rounding a number to a multiple of a
unit gives one of its two neighbours: the nearer, and the even one at a tie, for direction 0; toward zero, +infinity and
-infinity for 1, 2 and 3; a multiple is kept. A number is rounded into a format at the weight that leaves its precision,
or at that of the subnormals; past the largest finite numbers it overflows. The operations on finite operands round the
exact sum, difference or product; the quotient and the root, which need not be numbers m * 2^e, are rounded as every such
number that equals them, or is odd, has two bits more than the format and is within one unit of them. -/
def Obligations.RoundingDirections : Prop :=
  (∀ (rd : BitVec 2) (neg : Bool) (m : Nat) (e x : Int), e < x →
    let unit := 2 ^ (x - e).toNat
    let q := (roundAt rd neg m e x).1
    ((roundAt rd neg m e x).2 = true ↔ m % unit ≠ 0) ∧ (m % unit = 0 → q * unit = m) ∧
    (q = m / unit ∨ q = m / unit + 1) ∧
    (rd = 0 → 2 * (q * unit - m) ≤ unit ∧ 2 * (m - q * unit) ≤ unit ∧
      (2 * (q * unit - m) = unit ∨ 2 * (m - q * unit) = unit → q % 2 = 0)) ∧
    (rd = 1 → q * unit ≤ m) ∧ (rd = 2 → if neg then q * unit ≤ m else m ≤ q * unit) ∧
    (rd = 3 → if neg then m ≤ q * unit else q * unit ≤ m)) ∧
  (∀ f ∈ [binary32, binary64], ∀ (rd : BitVec 2) (neg : Bool) (m : Nat) (e : Int), m ≠ 0 →
    let precise : Int := e + m.log2 - f.fracBits
    let rounded := roundAt rd neg m e (max precise f.minExp)
    let past := 2 ^ (f.fracBits + 1) ≤ (roundAt rd neg m e (2 ^ (f.expBits - 1) - 1 - f.fracBits)).1
    let tiny := (roundAt rd neg m e precise).1 < 2 ^ (f.minExp + f.fracBits - precise).toNat
    (past → f.round rd neg m e =
      (f.signed neg (if rd = 0 ∨ rd = 2 ∧ neg = false ∨ rd = 3 ∧ neg = true then f.infBits else f.infBits - 1), 0x09)) ∧
    (¬past → (f.round rd neg m e).2 = (if rounded.2 = false then 0 else if tiny then 0x05 else 0x01) ∧
      ∃ m' e', f.unpack (f.round rd neg m e).1 = .fin neg m' e' ∧ max precise f.minExp ≤ e' ∧
        m' * 2 ^ (e' - max precise f.minExp).toNat = rounded.1)) ∧
  ∀ (double : Bool) (rule : FpNanRule) (a b : BitVec 64) (rd : BitVec 2) (na nb : Bool) (ma mb : Nat) (ea eb : Int),
    let f := if double then binary64 else binary32
    let gives := fun (single op : FpOp) => fpReference rule (if double then op else single) a b rd
    f.unpack a = .fin na ma ea → f.unpack b = .fin nb mb eb →
      (∀ (neg : Bool) (m : Nat) (e : Int), m ≠ 0 → e ≤ ea → e ≤ eb →
        let x := ma * 2 ^ (ea - e).toNat
        let y := mb * 2 ^ (eb - e).toNat
        (signedInt neg m = signedInt na x + signedInt nb y → gives .addS .addD = f.round rd neg m e) ∧
        (signedInt neg m = signedInt na x - signedInt nb y → gives .subS .subD = f.round rd neg m e)) ∧
      (∀ e : Int, e ≤ ea → e ≤ eb → ma * 2 ^ (ea - e).toNat = mb * 2 ^ (eb - e).toNat →
        (na ≠ nb ∨ ma = 0 →
          gives .addS .addD = (f.signed (if na = nb then na else decide (rd = 3)) 0, 0)) ∧
        (na = nb ∨ ma = 0 →
          gives .subS .subD = (f.signed (if na = !nb then na else decide (rd = 3)) 0, 0))) ∧
      gives .mulS .mulD = f.round rd (na ^^ nb) (ma * mb) (ea + eb) ∧
      (ma ≠ 0 → mb = 0 → gives .divS .divD = (f.signed (na ^^ nb) f.infBits, 0x02)) ∧
      (ma = 0 → mb ≠ 0 → gives .divS .divD = (f.signed (na ^^ nb) 0, 0)) ∧
      (mb = 0 → gives .sqrtS .sqrtD = (f.signed nb 0, 0)) ∧
      ∀ (m : Nat) (e : Int), mb ≠ 0 →
        let standsFor := fun (below : Nat → Nat) (exact : Nat) =>
          below m = exact ∨ m % 2 = 1 ∧ 2 ^ (f.fracBits + 2) ≤ m ∧ below (m - 1) < exact ∧ exact < below (m + 1)
        let quotient := ea - eb - e
        let root := eb - 2 * e
        (ma ≠ 0 → standsFor (fun k => k * mb * 2 ^ (-quotient).toNat) (ma * 2 ^ quotient.toNat) →
          gives .divS .divD = f.round rd (na ^^ nb) m e) ∧
        (nb = false → standsFor (fun k => k * k * 2 ^ (-root).toNat) (mb * 2 ^ root.toNat) →
          gives .sqrtS .sqrtD = f.round rd false m e)

/-- R903: a number that a format holds is rounded to itself in that format, in every direction and with no exception. -/
def Obligations.RepresentableIsExact : Prop :=
  ∀ f ∈ [binary32, binary64], ∀ (bits : BitVec 64) (rd : BitVec 2) (neg : Bool) (m : Nat) (e : Int),
    bits.toNat < 2 ^ (1 + f.expBits + f.fracBits) → f.unpack bits = .fin neg m e → f.round rd neg m e = (bits, 0)

/-- R926, R929 under the reference configuration: every 32-bit integer is exact in double, so FiTOd has no exception and
FdTOi gives the integer back, whatever the rounding direction. -/
def Obligations.IntegersAreExactInDouble : Prop :=
  ∀ (rule : FpNanRule) (n : Word) (rd rd' : BitVec 2),
    ∃ r, fpReference rule .itod 0 (n.zeroExtend 64) rd = (r, 0) ∧
      fpReference rule .dtoi 0 r rd' = (n.zeroExtend 64, 0)

/-! ### Invariants and whole-machine rules -/

/-- 10_state R103, R108, 00_scope R9: every step keeps the shape of the state: no instruction puts a window number of
NWINDOWS or more into psr.cwp. -/
def Obligations.ShapeIsInvariant : Prop := ∀ s t : State, s.Shaped → step s = .next t → t.Shaped

/-- 10_state R109: every step keeps pc and npc multiples of 4. -/
def Obligations.CountersStayAligned : Prop := ∀ s t : State, s.PcAligned → step s = .next t → t.PcAligned

/-- 20_memory R201, R205, R210: every step keeps the canonical form of memory, every nonzero byte in an owned page, every
owned page under an owned table, and the counters within the capacities. The canonical form, and that a read looks at the
bytes alone, are the model's (log 10). -/
def Obligations.MemoryIsInvariant : Prop :=
  ∀ s t : State, s.cfg.Legal → s.MemoryGood → step s = .next t → t.MemoryGood

/-- 20_memory R203, R204, R230, R231: a step changes no byte outside its own data write, of which there is at most one,
and it never frees a page or a table. -/
def Obligations.MemoryChangesOnlyByTheWrite : Prop :=
  ∀ s t : State, step s = .next t →
    t.writes.length ≤ 1 ∧
    (∀ a, (∀ d ∈ t.writes, ¬Stored d.addr d.bytes.length a) → t.mem.byte a = s.mem.byte a) ∧
    (∀ d ∈ t.writes, aligned d.addr d.bytes.length = true ∧
      ∀ k (h : k < d.bytes.length), t.mem.byte (d.addr + BitVec.ofNat 32 k) = d.bytes[k]) ∧
    (t.writes = [] → t.mem.l2 = s.mem.l2 ∧ t.mem.pages = s.mem.pages) ∧
    (∀ n ∈ s.mem.l2, n ∈ t.mem.l2) ∧ ∀ n ∈ s.mem.pages, n ∈ t.mem.pages

/-- 10_state R156: the values after the host's reset and at power-on. Memory and its allocation are kept by a reset, and
empty at power-on. -/
def Obligations.ResetState : Prop :=
  let cleared := fun (t : State) =>
    (∀ slot, t.readSlot slot = 0) ∧ (∀ r, t.fr r = 0) ∧ t.pc = 0 ∧ t.npc = 4 ∧ t.psr = 0 ∧ t.fsr = 0 ∧ t.tbr = 0 ∧
      t.wim = 0 ∧ t.y = 0 ∧ t.errorMode = false ∧ t.viewOverride = none ∧ t.last.valid = false ∧
      t.bps.entries = [] ∧ t.bps.nextSerial = 1
  (∀ s : State, cleared s.hostReset ∧ s.hostReset.mem = s.mem ∧ s.hostReset.cfg = s.cfg) ∧
  ∀ c : Config, cleared (State.powerOn c) ∧ (∀ a, (State.powerOn c).mem.byte a = 0) ∧
    (State.powerOn c).allocationCount = (0, 0)

/-- The invariants hold at power-on under every legal configuration (00_scope R9), and State.reset is power-on under the
spec values. -/
def Obligations.ResetMeetsInvariants : Prop :=
  (∀ c : Config, c.Legal → (State.powerOn c).Shaped ∧ (State.powerOn c).PcAligned ∧ (State.powerOn c).MemoryGood) ∧
    Config.spec.Legal ∧ State.reset = State.powerOn Config.spec ∧
    (State.reset.cfg.nwindows, State.reset.cfg.rootBits, State.reset.cfg.l2Bits, State.reset.cfg.pageBits,
      State.reset.cfg.bpCapacity, State.reset.cfg.annulTakenBA) = (8, 10, 10, 12, 4, false)

/-- 10_state R155, 60_exceptions R1048: no instruction reads the BreakpointTable, the host's view, the last-step record or
the model's own report and list of writes (log 4): two states that differ only there execute it alike. It leaves the
first three as they were. -/
def Obligations.HostStateIsInvisible : Prop :=
  ∀ (i : Instr) (s : State) (b : BreakpointTable) (v : Option Nat) (l : LastStep) (r : Report) (w : List DataWrite),
    exec i { s with bps := b, viewOverride := v, last := l, report := r, writes := w } =
      match exec i s with
      | .next t => .next { t with bps := b, viewOverride := v, last := l }
      | .fault f => .fault f
      | .refused f => .refused f

/-- 10_state R112, R121, R155, 00_scope R11: no step changes the parameters, the host's view, the BreakpointTable, impl or
ver of the PSR, or ver of the FSR. That qne is kept as well is the model's reading (log 7). -/
def Obligations.ReadOnlyFields : Prop :=
  ∀ s t : State, step s = .next t →
    t.cfg = s.cfg ∧ t.viewOverride = s.viewOverride ∧ t.bps = s.bps ∧
    (castToPSR t.psr).impl = (castToPSR s.psr).impl ∧ (castToPSR t.psr).ver = (castToPSR s.psr).ver ∧
    (castToFSR t.fsr).ver = (castToFSR s.fsr).ver ∧ (castToFSR t.fsr).qne = (castToFSR s.fsr).qne

/-- 60_exceptions R1020, R1021: a step in user mode that takes no trap leaves WIM, the TBR and every PSR field but icc and
cwp as they were; so user mode ends by a trap and by nothing else. -/
def Obligations.UserModeIsConfined : Prop :=
  ∀ s t : State, Psr.s s.psr = false → step s = .next t →
    ((∀ tt, t.report ≠ .continued (some tt)) → (∀ tt, t.report ≠ .errorMode tt) →
      t.wim = s.wim ∧ t.tbr = s.tbr ∧
        castToPSR t.psr = { castToPSR s.psr with icc := (castToPSR t.psr).icc, cwp := (castToPSR t.psr).cwp }) ∧
    (Psr.s t.psr = true → ∃ tt, t.report = .continued (some tt))

/-- 60_exceptions R1001, R1011, R1013: a step that reports Continue(tt) took that trap with psr.et = 1 and did nothing
else; one that enters error mode did so with psr.et = 0 and changed nothing else. The FSR differs only as a trapping FPop
writes it, and tt is one of the eight codes that instructions raise. -/
def Obligations.TrapAndErrorModeEntry : Prop :=
  ∀ (s t : State) (out : Report), s.Shaped → stepOutcome s = .ok (out, t) →
    let codes : List (BitVec 8) := [0x03, 0x04, 0x05, 0x06, 0x07, 0x08, 0x0A, 0x2A]
    let fsrOk := t.fsr = s.fsr ∨
      (∃ e, e ≠ 0 ∧ castToFSR t.fsr = { castToFSR s.fsr with cexc := e, ftt := 1 }) ∨
      castToFSR t.fsr = { castToFSR s.fsr with ftt := 3 }
    (∀ tt, out = .continued (some tt) →
      Psr.et s.psr = true ∧ tt ∈ codes ∧ fsrOk ∧ TrapTaken tt t.fsr s { t with last := s.last }) ∧
    (∀ tt, out = .errorMode tt → s.errorMode = false →
      Psr.et s.psr = false ∧ tt ∈ codes ∧ fsrOk ∧ ErrorModeEntered tt t.fsr s t)

/-- 42_control_transfer R604: a trap followed by `jmpl %l1, %g0` and `rett %l2` goes back to the trapped instruction with
its window, its mode and traps enabled; l1 and l2 of the handler's window, ps, tt and pc, npc aside, nothing has changed.
WIM must not mark the window that was interrupted. -/
def Obligations.TrapReturnIdiom : Prop :=
  ∀ (s : State) (tt : BitVec 8), s.Shaped → s.PcAligned → Psr.et s.psr = true → s.wim.getLsbD s.window = false →
    Gives (exec (.jmpl 0 17 (.imm 0)) (takeTrap tt s)) fun u =>
      Gives (exec (.rett 18 (.imm 0)) u) fun t =>
        t.pc = s.pc ∧ t.npc = s.npc ∧ castToPSR t.psr = { castToPSR s.psr with ps := (castToPSR s.psr).s } ∧
        s.SlotsKeptBut t ((s.window + s.cfg.nwindows - 1) % s.cfg.nwindows) [17, 18] ∧
        (∀ r : Reg, t.x r = s.x r) ∧ s.KeptBut t [.integers, .psr, .tbr]

/-- 10_state R113, R123: the structured views tile the words: packing undoes splitting and splitting undoes packing, with
each field in its place. -/
def Obligations.StatusViewsTile : Prop :=
  (∀ raw : Word, packPSR (castToPSR raw) = raw) ∧ (∀ p : PsrFields, castToPSR (packPSR p) = p) ∧
  (∀ raw : Word, packFSR (castToFSR raw) = raw) ∧ (∀ p : FsrFields, castToFSR (packFSR p) = p) ∧
  (∀ p : PsrFields, (packPSR p).toNat = p.impl.toNat * 2 ^ 28 + p.ver.toNat * 2 ^ 24 + p.icc.n.toNat * 2 ^ 23 +
    p.icc.z.toNat * 2 ^ 22 + p.icc.v.toNat * 2 ^ 21 + p.icc.c.toNat * 2 ^ 20 + p.reserved.toNat * 2 ^ 14 +
    p.ec.toNat * 2 ^ 13 + p.ef.toNat * 2 ^ 12 + p.pil.toNat * 2 ^ 8 + p.s.toNat * 2 ^ 7 + p.ps.toNat * 2 ^ 6 +
    p.et.toNat * 2 ^ 5 + p.cwp.toNat) ∧
  ∀ p : FsrFields, (packFSR p).toNat = p.rd.toNat * 2 ^ 30 + p.uhigh.toNat * 2 ^ 28 + p.tem.toNat * 2 ^ 23 +
    p.ns.toNat * 2 ^ 22 + p.res.toNat * 2 ^ 21 + p.ver.toNat * 2 ^ 18 + p.ftt.toNat * 2 ^ 15 + p.qne.toNat * 2 ^ 14 +
    p.fcc.toNat * 2 ^ 12 + p.ulow.toNat * 2 ^ 10 + p.aexc.toNat * 2 ^ 5 + p.cexc.toNat

/-! ### The host's requests -/

/-- 60_exceptions R1041, R1042: the host's add and delete on a table that meets its invariants (R1040), which they keep.
A request that fails has no effect. -/
def Obligations.BreakpointRequests : Prop :=
  ∀ (s : State) (addr : Word) (kind : BreakKind) (serial : Nat), s.bps.wf s.cfg.bpCapacity →
    let a := addr &&& 0xFFFFFFFC
    (∀ e ∈ s.bps.entries, e.addr = a → e.kind = kind →
      s.addBreakpoint addr kind = .error (.breakpoint (.duplicate e.serial))) ∧
    ((∀ e ∈ s.bps.entries, ¬(e.addr = a ∧ e.kind = kind)) →
      (s.bps.entries.length = s.cfg.bpCapacity → s.addBreakpoint addr kind = .error (.breakpoint .capacity)) ∧
      (s.bps.entries.length ≠ s.cfg.bpCapacity → ∃ t, s.addBreakpoint addr kind = .ok (s.bps.nextSerial, t) ∧
        t = { s with bps := ⟨s.bps.entries ++ [⟨s.bps.nextSerial, a, kind⟩], s.bps.nextSerial + 1⟩ } ∧
        t.bps.wf s.cfg.bpCapacity)) ∧
    ((∀ e ∈ s.bps.entries, e.serial ≠ serial) → s.deleteBreakpoint serial = .error (.breakpoint .notFound)) ∧
    ((∃ e ∈ s.bps.entries, e.serial = serial) → ∃ t, s.deleteBreakpoint serial = .ok t ∧
      t = { s with bps := ⟨s.bps.entries.filter (fun e => e.serial != serial), s.bps.nextSerial⟩ } ∧
      t.bps.wf s.cfg.bpCapacity)
end

