-- ==== Sys2Proof/Laws/Memory.lean ====
section
/-! SUPPORT. Memory: reads after writes (20_memory R202, R207, R230), what `ensure` and `write` can answer (R205, R211),
and that every memory operation keeps the canonical form and the allocation invariants. -/

namespace Sys2Proof.Machine

/-! ### One byte -/

theorem cellByte_insertCell (cells : List Host.Cell) (a b : Nat) (v : Byte) :
    cellByte (insertCell cells a v) b = if b = a then v else cellByte cells b := by
  induction cells with
  | nil => simp [insertCell, cellByte, eq_comm]
  | cons c rest ih =>
    obtain ⟨d, u⟩ := c
    simp only [insertCell]
    split_ifs <;> simp only [cellByte, ih] <;> split_ifs <;> first | rfl | omega

theorem cellByte_filter (cells : List Host.Cell) (a b : Nat) :
    cellByte (cells.filter (fun c => c.1 != a)) b = if b = a then 0 else cellByte cells b := by
  induction cells with
  | nil => simp [cellByte]
  | cons c rest ih =>
    obtain ⟨d, u⟩ := c
    by_cases h : d = a
    · subst h
      simp only [List.filter_cons, bne_self_eq_false, Bool.false_eq_true, if_false, cellByte, ih]
      split_ifs <;> first | rfl | omega
    · have hb : (d != a) = true := by simpa using h
      simp only [List.filter_cons, hb, if_true, cellByte, ih]
      split_ifs <;> first | rfl | omega

/-- A byte after a byte write. -/
theorem cellByte_setCell (cells : List Host.Cell) (a b : Nat) (v : Byte) :
    cellByte (setCell cells a v) b = if b = a then v else cellByte cells b := by
  unfold setCell
  split_ifs with hv hb hb
  · rw [cellByte_filter, if_pos hb, hv]
  · rw [cellByte_filter, if_neg hb]
  · rw [cellByte_insertCell, if_pos hb]
  · rw [cellByte_insertCell, if_neg hb]

/-- A byte after a store of bytes from `start` up, modulo 2^32 (20_memory R211). -/
theorem byte_storeBytes (m : Memory) (start a : Word) (bytes : List Byte) (h : bytes.length ≤ 2 ^ 32) :
    (m.storeBytes start bytes).byte a =
      if (a - start).toNat < bytes.length then bytes.getD (a - start).toNat 0 else m.byte a := by
  induction bytes generalizing m start with
  | nil => simp [Memory.storeBytes]
  | cons b bs ih =>
    have hl : bs.length + 1 ≤ 2 ^ 32 := h
    rw [Memory.storeBytes, ih _ _ (by omega)]
    simp only [Memory.byte, cellByte_setCell, List.length_cons]
    have ha := a.isLt; have hs := start.isLt
    rcases Nat.eq_zero_or_pos (a - start).toNat with h0 | h0
    · have e : a = start := by
        have : a - start = 0 := BitVec.eq_of_toNat_eq (by simpa using h0)
        simpa [BitVec.sub_eq_iff_eq_add] using this
      subst e
      have h1 : (a - (a + 1)).toNat = 2 ^ 32 - 1 := by
        rw [show a - (a + 1) = -1 by ring]; rfl
      rw [h1, if_neg (by omega), if_pos rfl, h0, if_pos (by omega)]; rfl
    · have h1 : (a - (start + 1)).toNat = (a - start).toNat - 1 := by
        rw [show a - (start + 1) = (a - start) - 1 by ring]
        rw [BitVec.toNat_sub]
        have := (a - start).isLt
        have e1 : (1 : BitVec 32).toNat = 1 := rfl
        rw [e1]; omega
      have hne : a.toNat ≠ start.toNat := by
        intro e; have : a = start := BitVec.eq_of_toNat_eq e
        subst this; simp at h0
      obtain ⟨k, hk⟩ : ∃ k, (a - start).toNat = k + 1 := ⟨_, (Nat.sub_add_cancel h0).symm⟩
      rw [h1, hk, if_neg hne]
      simp only [Nat.add_sub_cancel, Nat.add_lt_add_iff_right, List.getD_cons_succ]

theorem byte_storeBytes_stored (m : Memory) (start : Word) (bytes : List Byte) (h : bytes.length ≤ 2 ^ 32) (k : Nat)
    (hk : k < bytes.length) : (m.storeBytes start bytes).byte (start + BitVec.ofNat 32 k) = bytes.getD k 0 := by
  have e : (start + BitVec.ofNat 32 k - start).toNat = k := by
    rw [show start + BitVec.ofNat 32 k - start = BitVec.ofNat 32 k by ring, BitVec.toNat_ofNat, Nat.mod_eq_of_lt]
    omega
  rw [byte_storeBytes m start _ bytes h, e, if_pos hk]

theorem byte_storeBytes_outside (m : Memory) (start a : Word) (bytes : List Byte) (h : bytes.length ≤ 2 ^ 32)
    (ha : ¬Stored start bytes.length a) : (m.storeBytes start bytes).byte a = m.byte a := by
  rw [byte_storeBytes m start a bytes h, if_neg ha]

@[simp] theorem Memory.byte_addPage (c : Config) (m : Memory) (a b : Word) : (m.addPage c a).byte b = m.byte b := rfl

@[simp] theorem storeBytes_l2 (m : Memory) (a : Word) (bs : List Byte) : (m.storeBytes a bs).l2 = m.l2 := by
  induction bs generalizing m a with
  | nil => rfl
  | cons b bs ih => rw [Memory.storeBytes, ih]

@[simp] theorem storeBytes_pages (m : Memory) (a : Word) (bs : List Byte) : (m.storeBytes a bs).pages = m.pages := by
  induction bs generalizing m a with
  | nil => rfl
  | cons b bs ih => rw [Memory.storeBytes, ih]

/-! ### Wide accesses (20_memory R207) -/

theorem wordOfBytes_bytesOfWord (w : Word) :
    wordOfBytes ((bytesOfWord w).getD 0 0) ((bytesOfWord w).getD 1 0) ((bytesOfWord w).getD 2 0)
      ((bytesOfWord w).getD 3 0) = w := by
  apply BitVec.eq_of_getLsbD_eq
  intro j hj
  change @BitVec.getLsbD (8 + 8 + 8 + 8) (_ ++ _) j = _
  simp only [bytesOfWord, List.getD_cons_zero, List.getD_cons_succ, BitVec.getLsbD_append, BitVec.getLsbD_extractLsb']
  interval_cases j <;> rfl

/-- A word read where a word was stored. -/
theorem read4_storeBytes (m : Memory) (a w : Word) : (m.storeBytes a (bytesOfWord w)).read4 a = w := by
  have hl : (bytesOfWord w).length = 4 := rfl
  have h (k : Nat) (hk : k < 4) := byte_storeBytes_stored m a (bytesOfWord w) (by rw [hl]; norm_num) k (by omega)
  have h0 := h 0 (by omega); have h1 := h 1 (by omega); have h2 := h 2 (by omega); have h3 := h 3 (by omega)
  rw [show a + BitVec.ofNat 32 0 = a by simp] at h0
  rw [Memory.read4, h0, show a + 1 = a + BitVec.ofNat 32 1 from rfl, h1, show a + 2 = a + BitVec.ofNat 32 2 from rfl, h2,
    show a + 3 = a + BitVec.ofNat 32 3 from rfl, h3]
  exact wordOfBytes_bytesOfWord w

/-- Reads depend on bytes alone. -/
theorem read4_congr {m m' : Memory} (h : ∀ a, m'.byte a = m.byte a) (a : Word) : m'.read4 a = m.read4 a := by
  simp only [Memory.read4, h]

/-! ### Allocation (20_memory R205, R211) -/

theorem mem_insertRising (l : List Nat) (n k : Nat) : k ∈ insertRising l n ↔ k = n ∨ k ∈ l := by
  induction l with
  | nil => simp [insertRising]
  | cons x xs ih => simp only [insertRising]; split_ifs <;> simp [ih]; tauto

theorem mem_insertNumber (l : List Nat) (n k : Nat) : k ∈ insertNumber l n ↔ k = n ∨ k ∈ l := by
  unfold insertNumber
  split_ifs with h
  · have : n ∈ l := by simpa using h
    constructor
    · exact Or.inr
    · rintro (rfl | h') <;> assumption
  · exact mem_insertRising l n k

theorem length_insertRising (l : List Nat) (n : Nat) : (insertRising l n).length = l.length + 1 := by
  induction l with
  | nil => rfl
  | cons x xs ih => simp only [insertRising]; split_ifs <;> simp [ih]

theorem length_insertNumber (l : List Nat) (n : Nat) :
    (insertNumber l n).length = if n ∈ l then l.length else l.length + 1 := by
  unfold insertNumber
  by_cases h : n ∈ l <;> simp [h, length_insertRising]

theorem rising_insertRising {l : List Nat} (h : Rising l) {n : Nat} (hn : n ∉ l) : Rising (insertRising l n) := by
  induction l with
  | nil => simp [insertRising]
  | cons x xs ih =>
    obtain ⟨hx, hxs⟩ := List.pairwise_cons.1 h
    simp only [List.mem_cons, not_or] at hn
    simp only [insertRising]
    split_ifs with hlt
    · refine List.pairwise_cons.2 ⟨fun y hy => ?_, h⟩
      rcases List.mem_cons.1 hy with rfl | hy
      · exact hlt
      · exact lt_trans hlt (hx y hy)
    · refine List.pairwise_cons.2 ⟨fun y hy => ?_, ih hxs hn.2⟩
      rcases (mem_insertRising xs n y).1 hy with rfl | hy
      · omega
      · exact hx y hy

theorem rising_insertNumber {l : List Nat} (h : Rising l) (n : Nat) : Rising (insertNumber l n) := by
  unfold insertNumber
  split_ifs with hc
  · exact h
  · exact rising_insertRising h (by simpa using hc)

/-- What `ensure` answers: one of its failures under its conditions, or the page added (20_memory R205). -/
theorem ensure_ok_iff (c : Config) (m m' : Memory) (a : Word) :
    m.ensure c a = .ok m' ↔
      ¬(rootIndex c a ∉ m.l2 ∧ c.l2Capacity = some m.l2.length) ∧
        ¬(pageNumber c a ∉ m.pages ∧ c.pageCapacity = some m.pages.length) ∧ m' = m.addPage c a := by
  unfold Memory.ensure
  by_cases h1 : rootIndex c a ∉ m.l2 ∧ c.l2Capacity = some m.l2.length
  · simp [h1]
  · by_cases h2 : pageNumber c a ∉ m.pages ∧ c.pageCapacity = some m.pages.length
    · rw [if_neg (by simpa using h1), if_pos (by simpa using h2)]; simp [h2]
    · rw [if_neg (by simpa using h1), if_neg (by simpa using h2)]; simp [eq_comm]; tauto

theorem ensure_ok {c : Config} {m m' : Memory} {a : Word} (h : m.ensure c a = .ok m') : m' = m.addPage c a :=
  ((ensure_ok_iff c m m' a).1 h).2.2

/-- What `write` answers: the bytes stored with the page in place (20_memory R211). -/
theorem write_ok_iff (c : Config) (m m' : Memory) (a : Word) (bytes : List Byte) :
    m.write c a bytes = .ok m' ↔ ∃ p, m.ensure c a = .ok p ∧ m' = p.storeBytes a bytes := by
  unfold Memory.write
  cases m.ensure c a <;> simp [eq_comm]

theorem write_ok {c : Config} {m m' : Memory} {a : Word} {bytes : List Byte} (h : m.write c a bytes = .ok m') :
    m' = (m.addPage c a).storeBytes a bytes := by
  obtain ⟨p, hp, rfl⟩ := (write_ok_iff ..).1 h
  rw [ensure_ok hp]

theorem byte_write_outside {c : Config} {m m' : Memory} {a : Word} {bytes : List Byte}
    (h : m.write c a bytes = .ok m') (hl : bytes.length ≤ 2 ^ 32) {b : Word} (hb : ¬Stored a bytes.length b) :
    m'.byte b = m.byte b := by
  rw [write_ok h, byte_storeBytes_outside _ _ _ _ hl hb, Memory.byte_addPage]

/-! ### The canonical form -/

theorem mem_insertCell {cells : List Host.Cell} {a : Nat} {v : Byte} {c : Host.Cell} (h : c ∈ insertCell cells a v) :
    c = (a, v) ∨ c ∈ cells := by
  induction cells with
  | nil => simpa [insertCell] using h
  | cons d rest ih =>
    obtain ⟨b, u⟩ := d
    simp only [insertCell] at h
    split_ifs at h
    · rcases List.mem_cons.1 h with h | h <;> simp [h]
    · rcases List.mem_cons.1 h with h | h <;> simp [h]
    · rcases List.mem_cons.1 h with h | h
      · simp [h]
      · rcases ih h with h | h <;> simp [h]

theorem rising_insertCell {cells : List Host.Cell} (h : Rising (cells.map Prod.fst)) (a : Nat) (v : Byte) :
    Rising ((insertCell cells a v).map Prod.fst) := by
  induction cells with
  | nil => simp [insertCell]
  | cons d rest ih =>
    obtain ⟨b, u⟩ := d
    obtain ⟨hx, hxs⟩ := List.pairwise_cons.1 (by simpa using h : Rising (b :: rest.map Prod.fst))
    simp only [insertCell]
    split_ifs with h1 h2
    · simp only [List.map_cons]
      refine List.pairwise_cons.2 ⟨fun y hy => ?_, List.pairwise_cons.2 ⟨hx, hxs⟩⟩
      rcases List.mem_cons.1 hy with rfl | hy
      · exact h1
      · exact lt_trans h1 (hx y hy)
    · subst h2; simpa using h
    · simp only [List.map_cons]
      refine List.pairwise_cons.2 ⟨fun y hy => ?_, ih hxs⟩
      obtain ⟨c, hc, rfl⟩ := List.mem_map.1 hy
      rcases mem_insertCell hc with rfl | hc
      · simp only; omega
      · exact hx _ (List.mem_map_of_mem hc)

/-- The cells of the canonical form: rising addresses below 2^32, no cell that reads as an unlisted one. -/
abbrev CellsGood (cells : List Host.Cell) : Prop :=
  Rising (cells.map Prod.fst) ∧ ∀ c ∈ cells, c.1 < 2 ^ 32 ∧ c.2 ≠ 0

theorem cellsGood_setCell {cells : List Host.Cell} (h : CellsGood cells) {a : Nat} (ha : a < 2 ^ 32) (v : Byte) :
    CellsGood (setCell cells a v) := by
  unfold setCell
  split_ifs with hv
  · refine ⟨List.Pairwise.sublist (List.filter_sublist.map _) h.1, fun c hc => h.2 c (List.mem_of_mem_filter hc)⟩
  · refine ⟨rising_insertCell h.1 a v, fun c hc => ?_⟩
    rcases mem_insertCell hc with rfl | hc
    · exact ⟨ha, hv⟩
    · exact h.2 c hc

/-- Storing bytes keeps the canonical form. -/
theorem wf_storeBytes {m : Memory} (h : m.wf) (a : Word) (bytes : List Byte) : (m.storeBytes a bytes).wf := by
  induction bytes generalizing m a with
  | nil => exact h
  | cons b bs ih =>
    have hc := cellsGood_setCell ⟨h.1, h.2.1⟩ a.isLt b
    exact ih (m := { m with cells := setCell m.cells a.toNat b }) ⟨hc.1, hc.2, h.2.2⟩ (a + 1)

/-- Making a page exist keeps the canonical form. -/
theorem wf_addPage {m : Memory} (h : m.wf) (c : Config) (a : Word) : (m.addPage c a).wf :=
  ⟨h.1, h.2.1, rising_insertNumber h.2.2.1 _, rising_insertNumber h.2.2.2 _⟩

theorem wf_ensure {c : Config} {m m' : Memory} {a : Word} (h : m.wf) (e : m.ensure c a = .ok m') : m'.wf := by
  rw [ensure_ok e]; exact wf_addPage h c a

theorem wf_write {c : Config} {m m' : Memory} {a : Word} {bytes : List Byte} (h : m.wf)
    (e : m.write c a bytes = .ok m') : m'.wf := by
  rw [write_ok e]; exact wf_storeBytes (wf_addPage h c a) a bytes

theorem wf_powerOn (c : Config) : (State.powerOn c).mem.wf := by
  refine ⟨List.Pairwise.nil, ?_, List.Pairwise.nil, List.Pairwise.nil⟩
  intro x hx; cases hx

/-! ### The allocation invariant (20_memory R201) -/

theorem setCell_mem {cells : List Host.Cell} {a : Nat} {v : Byte} {c : Host.Cell} (h : c ∈ setCell cells a v) :
    c.1 = a ∨ c ∈ cells := by
  unfold setCell at h
  split_ifs at h
  · exact .inr (List.mem_of_mem_filter h)
  · rcases mem_insertCell h with rfl | h
    · exact .inl rfl
    · exact .inr h

/-- Every address of the stored bytes lies in an owned page: the allocation sets still fit the bytes. -/
theorem allocated_storeBytes {c : Config} {m : Memory} (h : m.Allocated c) (a : Word) (bytes : List Byte)
    (hp : ∀ k < bytes.length, (a + BitVec.ofNat 32 k).toNat / 2 ^ c.pageBits ∈ m.pages) :
    (m.storeBytes a bytes).Allocated c := by
  induction bytes generalizing m a with
  | nil => exact h
  | cons b bs ih =>
    refine ih (m := { m with cells := setCell m.cells a.toNat b }) ⟨fun cell hc => ?_, h.2⟩ (a + 1) fun k hk => ?_
    · rcases setCell_mem hc with e | hc
      · rw [e]; simpa using hp 0 (by simp)
      · exact h.1 cell hc
    · have := hp (k + 1) (by simpa using hk)
      have e : a + 1 + BitVec.ofNat 32 k = a + BitVec.ofNat 32 (k + 1) := by
        rw [BitVec.ofNat_add, add_assoc, add_comm (BitVec.ofNat 32 k)]; rfl
      rw [e]; exact this

theorem allocated_addPage {c : Config} (hc : c.Legal) {m : Memory} (h : m.Allocated c) (a : Word) :
    (m.addPage c a).Allocated c := by
  refine ⟨fun cell hcell => (mem_insertNumber ..).2 (.inr (h.1 cell hcell)), fun p hp => ?_⟩
  rcases (mem_insertNumber ..).1 hp with rfl | hp
  · refine (mem_insertNumber ..).2 (.inl ?_)
    simp only [pageNumber, rootIndex]
    rw [Nat.div_div_eq_div_mul, ← Nat.pow_add]
    congr 2
    have := hc.2.2.1
    omega
  · exact (mem_insertNumber ..).2 (.inr (h.2 p hp))

/-- An aligned access of n bytes, n at most a page, lies in the page of its address (20_memory R210). -/
theorem page_of_aligned {c : Config} (hc : c.Legal) {a : Word} {n : Nat} (hn : n = 1 ∨ n = 2 ∨ n = 4 ∨ n = 8)
    (h : aligned a n) {k : Nat} (hk : k < n) :
    (a + BitVec.ofNat 32 k).toNat / 2 ^ c.pageBits = pageNumber c a := by
  have ha := a.isLt
  obtain ⟨j, hj⟩ : ∃ j, c.pageBits = 3 + j := ⟨c.pageBits - 3, by have := hc.2.2.2.1; omega⟩
  have hmod : a.toNat % n = 0 := by simpa [aligned] using h
  have e : (a + BitVec.ofNat 32 k).toNat = a.toNat + k := by
    rw [BitVec.toNat_add, BitVec.toNat_ofNat]
    rcases hn with rfl | rfl | rfl | rfl <;> omega
  rw [e, pageNumber, hj, pow_add, ← Nat.div_div_eq_div_mul, ← Nat.div_div_eq_div_mul]
  congr 1
  rcases hn with rfl | rfl | rfl | rfl <;> omega

/-- An aligned write keeps the allocation invariant. -/
theorem allocated_write {c : Config} (hc : c.Legal) {m m' : Memory} (h : m.Allocated c) {a : Word} {bytes : List Byte}
    (hn : bytes.length = 1 ∨ bytes.length = 2 ∨ bytes.length = 4 ∨ bytes.length = 8) (ha : aligned a bytes.length)
    (e : m.write c a bytes = .ok m') : m'.Allocated c := by
  rw [write_ok e]
  refine allocated_storeBytes (allocated_addPage hc h a) a bytes fun k hk => ?_
  rw [page_of_aligned hc hn ha hk]
  exact (mem_insertNumber ..).2 (.inl rfl)

theorem within_ensure {c : Config} {m m' : Memory} {a : Word} (h : m.WithinCapacity c) (e : m.ensure c a = .ok m') :
    m'.WithinCapacity c := by
  obtain ⟨h1, h2, rfl⟩ := (ensure_ok_iff ..).1 e
  refine ⟨fun k hk => ?_, fun k hk => ?_⟩
  · have := h.1 k hk
    simp only [Memory.addPage, length_insertNumber]
    split_ifs with hm
    · exact this
    · have : k ≠ m.l2.length := fun e => h1 ⟨hm, e ▸ hk⟩
      omega
  · have := h.2 k hk
    simp only [Memory.addPage, length_insertNumber]
    split_ifs with hm
    · exact this
    · have : k ≠ m.pages.length := fun e => h2 ⟨hm, e ▸ hk⟩
      omega

theorem within_write {c : Config} {m m' : Memory} {a : Word} {bytes : List Byte} (h : m.WithinCapacity c)
    (e : m.write c a bytes = .ok m') : m'.WithinCapacity c := by
  obtain ⟨p, hp, rfl⟩ := (write_ok_iff ..).1 e
  have := within_ensure h hp
  exact ⟨by simpa using this.1, by simpa using this.2⟩

end Sys2Proof.Machine
end

