-- ==== Sys2Proof/Laws/Fields.lean ====
section
/-! SUPPORT. What each write of a status register does to each of its fields, and that the structured views lose
nothing (10_state R113, R123). -/

namespace Sys2Proof.Machine

/-! ### PSR -/

theorem Psr.getLsbD_setIcc (p : Word) (i : Icc) (j : Nat) (hj : j < 32) :
    (Psr.setIcc p i).getLsbD j =
      if j = 20 then i.c else if j = 21 then i.v
      else if j = 22 then i.z else if j = 23 then i.n else p.getLsbD j := by
  change @BitVec.getLsbD (8 + 1 + 1 + 1 + 1 + 20) (_ ++ _) j = _
  simp only [BitVec.getLsbD_append, BitVec.getLsbD_extractLsb', BitVec.getLsbD_ofBool]
  interval_cases j <;> rfl

@[simp] theorem Psr.impl_setIcc (p : Word) (i : Icc) :
    Psr.impl (Psr.setIcc p i) = Psr.impl p := by
  ext j hj; simp only [Psr.impl, BitVec.getElem_extractLsb']; rw [Psr.getLsbD_setIcc _ _ _ (by omega)]
  interval_cases j <;> rfl

@[simp] theorem Psr.ver_setIcc (p : Word) (i : Icc) :
    Psr.ver (Psr.setIcc p i) = Psr.ver p := by
  ext j hj; simp only [Psr.ver, BitVec.getElem_extractLsb']; rw [Psr.getLsbD_setIcc _ _ _ (by omega)]
  interval_cases j <;> rfl

@[simp] theorem Psr.reserved_setIcc (p : Word) (i : Icc) :
    Psr.reserved (Psr.setIcc p i) = Psr.reserved p := by
  ext j hj; simp only [Psr.reserved, BitVec.getElem_extractLsb']; rw [Psr.getLsbD_setIcc _ _ _ (by omega)]
  interval_cases j <;> rfl

@[simp] theorem Psr.pil_setIcc (p : Word) (i : Icc) :
    Psr.pil (Psr.setIcc p i) = Psr.pil p := by
  ext j hj; simp only [Psr.pil, BitVec.getElem_extractLsb']; rw [Psr.getLsbD_setIcc _ _ _ (by omega)]
  interval_cases j <;> rfl

@[simp] theorem Psr.cwp_setIcc (p : Word) (i : Icc) :
    Psr.cwp (Psr.setIcc p i) = Psr.cwp p := by
  ext j hj; simp only [Psr.cwp, BitVec.getElem_extractLsb']; rw [Psr.getLsbD_setIcc _ _ _ (by omega)]
  interval_cases j <;> rfl

@[simp] theorem Psr.ec_setIcc (p : Word) (i : Icc) :
    Psr.ec (Psr.setIcc p i) = Psr.ec p := by
  simp only [Psr.ec]; rw [Psr.getLsbD_setIcc _ _ _ (by omega)]; rfl

@[simp] theorem Psr.ef_setIcc (p : Word) (i : Icc) :
    Psr.ef (Psr.setIcc p i) = Psr.ef p := by
  simp only [Psr.ef]; rw [Psr.getLsbD_setIcc _ _ _ (by omega)]; rfl

@[simp] theorem Psr.s_setIcc (p : Word) (i : Icc) :
    Psr.s (Psr.setIcc p i) = Psr.s p := by
  simp only [Psr.s]; rw [Psr.getLsbD_setIcc _ _ _ (by omega)]; rfl

@[simp] theorem Psr.ps_setIcc (p : Word) (i : Icc) :
    Psr.ps (Psr.setIcc p i) = Psr.ps p := by
  simp only [Psr.ps]; rw [Psr.getLsbD_setIcc _ _ _ (by omega)]; rfl

@[simp] theorem Psr.et_setIcc (p : Word) (i : Icc) :
    Psr.et (Psr.setIcc p i) = Psr.et p := by
  simp only [Psr.et]; rw [Psr.getLsbD_setIcc _ _ _ (by omega)]; rfl

@[simp] theorem Psr.icc_setIcc (p : Word) (i : Icc) :
    Psr.icc (Psr.setIcc p i) = i := by
  simp only [Psr.icc]
  iterate 4 rw [Psr.getLsbD_setIcc _ _ _ (by omega)]
  rfl

theorem Psr.getLsbD_setCwp (p : Word) (c : BitVec 5) (j : Nat) (hj : j < 32) :
    (Psr.setCwp p c).getLsbD j =
      if j < 5 then c.getLsbD j else p.getLsbD j := by
  change @BitVec.getLsbD (27 + 5) (_ ++ _) j = _
  simp only [BitVec.getLsbD_append, BitVec.getLsbD_extractLsb']
  interval_cases j <;> rfl

@[simp] theorem Psr.impl_setCwp (p : Word) (c : BitVec 5) :
    Psr.impl (Psr.setCwp p c) = Psr.impl p := by
  ext j hj; simp only [Psr.impl, BitVec.getElem_extractLsb']; rw [Psr.getLsbD_setCwp _ _ _ (by omega)]
  interval_cases j <;> rfl

@[simp] theorem Psr.ver_setCwp (p : Word) (c : BitVec 5) :
    Psr.ver (Psr.setCwp p c) = Psr.ver p := by
  ext j hj; simp only [Psr.ver, BitVec.getElem_extractLsb']; rw [Psr.getLsbD_setCwp _ _ _ (by omega)]
  interval_cases j <;> rfl

@[simp] theorem Psr.reserved_setCwp (p : Word) (c : BitVec 5) :
    Psr.reserved (Psr.setCwp p c) = Psr.reserved p := by
  ext j hj; simp only [Psr.reserved, BitVec.getElem_extractLsb']; rw [Psr.getLsbD_setCwp _ _ _ (by omega)]
  interval_cases j <;> rfl

@[simp] theorem Psr.pil_setCwp (p : Word) (c : BitVec 5) :
    Psr.pil (Psr.setCwp p c) = Psr.pil p := by
  ext j hj; simp only [Psr.pil, BitVec.getElem_extractLsb']; rw [Psr.getLsbD_setCwp _ _ _ (by omega)]
  interval_cases j <;> rfl

@[simp] theorem Psr.cwp_setCwp (p : Word) (c : BitVec 5) :
    Psr.cwp (Psr.setCwp p c) = c := by
  ext j hj; simp only [Psr.cwp, BitVec.getElem_extractLsb']; rw [Psr.getLsbD_setCwp _ _ _ (by omega)]
  interval_cases j <;> rfl

@[simp] theorem Psr.ec_setCwp (p : Word) (c : BitVec 5) :
    Psr.ec (Psr.setCwp p c) = Psr.ec p := by
  simp only [Psr.ec]; rw [Psr.getLsbD_setCwp _ _ _ (by omega)]; rfl

@[simp] theorem Psr.ef_setCwp (p : Word) (c : BitVec 5) :
    Psr.ef (Psr.setCwp p c) = Psr.ef p := by
  simp only [Psr.ef]; rw [Psr.getLsbD_setCwp _ _ _ (by omega)]; rfl

@[simp] theorem Psr.s_setCwp (p : Word) (c : BitVec 5) :
    Psr.s (Psr.setCwp p c) = Psr.s p := by
  simp only [Psr.s]; rw [Psr.getLsbD_setCwp _ _ _ (by omega)]; rfl

@[simp] theorem Psr.ps_setCwp (p : Word) (c : BitVec 5) :
    Psr.ps (Psr.setCwp p c) = Psr.ps p := by
  simp only [Psr.ps]; rw [Psr.getLsbD_setCwp _ _ _ (by omega)]; rfl

@[simp] theorem Psr.et_setCwp (p : Word) (c : BitVec 5) :
    Psr.et (Psr.setCwp p c) = Psr.et p := by
  simp only [Psr.et]; rw [Psr.getLsbD_setCwp _ _ _ (by omega)]; rfl

@[simp] theorem Psr.icc_setCwp (p : Word) (c : BitVec 5) :
    Psr.icc (Psr.setCwp p c) = Psr.icc p := by
  simp only [Psr.icc]
  iterate 4 rw [Psr.getLsbD_setCwp _ _ _ (by omega)]
  rfl

theorem Psr.getLsbD_enterTrap (p : Word) (c : BitVec 5) (j : Nat) (hj : j < 32) :
    (Psr.enterTrap p c).getLsbD j =
      if j < 5 then c.getLsbD j else if j = 5 then false
      else if j = 6 then Psr.s p else if j = 7 then true else p.getLsbD j := by
  change @BitVec.getLsbD (24 + 1 + 1 + 1 + 5) (_ ++ _) j = _
  simp only [BitVec.getLsbD_append, BitVec.getLsbD_extractLsb', BitVec.getLsbD_ofBool]
  interval_cases j <;> rfl

@[simp] theorem Psr.impl_enterTrap (p : Word) (c : BitVec 5) :
    Psr.impl (Psr.enterTrap p c) = Psr.impl p := by
  ext j hj; simp only [Psr.impl, BitVec.getElem_extractLsb']; rw [Psr.getLsbD_enterTrap _ _ _ (by omega)]
  interval_cases j <;> rfl

@[simp] theorem Psr.ver_enterTrap (p : Word) (c : BitVec 5) :
    Psr.ver (Psr.enterTrap p c) = Psr.ver p := by
  ext j hj; simp only [Psr.ver, BitVec.getElem_extractLsb']; rw [Psr.getLsbD_enterTrap _ _ _ (by omega)]
  interval_cases j <;> rfl

@[simp] theorem Psr.reserved_enterTrap (p : Word) (c : BitVec 5) :
    Psr.reserved (Psr.enterTrap p c) = Psr.reserved p := by
  ext j hj; simp only [Psr.reserved, BitVec.getElem_extractLsb']; rw [Psr.getLsbD_enterTrap _ _ _ (by omega)]
  interval_cases j <;> rfl

@[simp] theorem Psr.pil_enterTrap (p : Word) (c : BitVec 5) :
    Psr.pil (Psr.enterTrap p c) = Psr.pil p := by
  ext j hj; simp only [Psr.pil, BitVec.getElem_extractLsb']; rw [Psr.getLsbD_enterTrap _ _ _ (by omega)]
  interval_cases j <;> rfl

@[simp] theorem Psr.cwp_enterTrap (p : Word) (c : BitVec 5) :
    Psr.cwp (Psr.enterTrap p c) = c := by
  ext j hj; simp only [Psr.cwp, BitVec.getElem_extractLsb']; rw [Psr.getLsbD_enterTrap _ _ _ (by omega)]
  interval_cases j <;> rfl

@[simp] theorem Psr.ec_enterTrap (p : Word) (c : BitVec 5) :
    Psr.ec (Psr.enterTrap p c) = Psr.ec p := by
  simp only [Psr.ec]; rw [Psr.getLsbD_enterTrap _ _ _ (by omega)]; rfl

@[simp] theorem Psr.ef_enterTrap (p : Word) (c : BitVec 5) :
    Psr.ef (Psr.enterTrap p c) = Psr.ef p := by
  simp only [Psr.ef]; rw [Psr.getLsbD_enterTrap _ _ _ (by omega)]; rfl

@[simp] theorem Psr.s_enterTrap (p : Word) (c : BitVec 5) :
    Psr.s (Psr.enterTrap p c) = true := by
  simp only [Psr.s]; rw [Psr.getLsbD_enterTrap _ _ _ (by omega)]; rfl

@[simp] theorem Psr.ps_enterTrap (p : Word) (c : BitVec 5) :
    Psr.ps (Psr.enterTrap p c) = Psr.s p := by
  simp only [Psr.ps]; rw [Psr.getLsbD_enterTrap _ _ _ (by omega)]; rfl

@[simp] theorem Psr.et_enterTrap (p : Word) (c : BitVec 5) :
    Psr.et (Psr.enterTrap p c) = false := by
  simp only [Psr.et]; rw [Psr.getLsbD_enterTrap _ _ _ (by omega)]; rfl

@[simp] theorem Psr.icc_enterTrap (p : Word) (c : BitVec 5) :
    Psr.icc (Psr.enterTrap p c) = Psr.icc p := by
  simp only [Psr.icc]
  iterate 4 rw [Psr.getLsbD_enterTrap _ _ _ (by omega)]
  rfl

theorem Psr.getLsbD_returnFromTrap (p : Word) (c : BitVec 5) (j : Nat) (hj : j < 32) :
    (Psr.returnFromTrap p c).getLsbD j =
      if j < 5 then c.getLsbD j else if j = 5 then true
      else if j = 6 then Psr.ps p else if j = 7 then Psr.ps p else p.getLsbD j := by
  change @BitVec.getLsbD (24 + 1 + 1 + 1 + 5) (_ ++ _) j = _
  simp only [BitVec.getLsbD_append, BitVec.getLsbD_extractLsb', BitVec.getLsbD_ofBool]
  interval_cases j <;> rfl

@[simp] theorem Psr.impl_returnFromTrap (p : Word) (c : BitVec 5) :
    Psr.impl (Psr.returnFromTrap p c) = Psr.impl p := by
  ext j hj; simp only [Psr.impl, BitVec.getElem_extractLsb']; rw [Psr.getLsbD_returnFromTrap _ _ _ (by omega)]
  interval_cases j <;> rfl

@[simp] theorem Psr.ver_returnFromTrap (p : Word) (c : BitVec 5) :
    Psr.ver (Psr.returnFromTrap p c) = Psr.ver p := by
  ext j hj; simp only [Psr.ver, BitVec.getElem_extractLsb']; rw [Psr.getLsbD_returnFromTrap _ _ _ (by omega)]
  interval_cases j <;> rfl

@[simp] theorem Psr.reserved_returnFromTrap (p : Word) (c : BitVec 5) :
    Psr.reserved (Psr.returnFromTrap p c) = Psr.reserved p := by
  ext j hj; simp only [Psr.reserved, BitVec.getElem_extractLsb']; rw [Psr.getLsbD_returnFromTrap _ _ _ (by omega)]
  interval_cases j <;> rfl

@[simp] theorem Psr.pil_returnFromTrap (p : Word) (c : BitVec 5) :
    Psr.pil (Psr.returnFromTrap p c) = Psr.pil p := by
  ext j hj; simp only [Psr.pil, BitVec.getElem_extractLsb']; rw [Psr.getLsbD_returnFromTrap _ _ _ (by omega)]
  interval_cases j <;> rfl

@[simp] theorem Psr.cwp_returnFromTrap (p : Word) (c : BitVec 5) :
    Psr.cwp (Psr.returnFromTrap p c) = c := by
  ext j hj; simp only [Psr.cwp, BitVec.getElem_extractLsb']; rw [Psr.getLsbD_returnFromTrap _ _ _ (by omega)]
  interval_cases j <;> rfl

@[simp] theorem Psr.ec_returnFromTrap (p : Word) (c : BitVec 5) :
    Psr.ec (Psr.returnFromTrap p c) = Psr.ec p := by
  simp only [Psr.ec]; rw [Psr.getLsbD_returnFromTrap _ _ _ (by omega)]; rfl

@[simp] theorem Psr.ef_returnFromTrap (p : Word) (c : BitVec 5) :
    Psr.ef (Psr.returnFromTrap p c) = Psr.ef p := by
  simp only [Psr.ef]; rw [Psr.getLsbD_returnFromTrap _ _ _ (by omega)]; rfl

@[simp] theorem Psr.s_returnFromTrap (p : Word) (c : BitVec 5) :
    Psr.s (Psr.returnFromTrap p c) = Psr.ps p := by
  simp only [Psr.s]; rw [Psr.getLsbD_returnFromTrap _ _ _ (by omega)]; rfl

@[simp] theorem Psr.ps_returnFromTrap (p : Word) (c : BitVec 5) :
    Psr.ps (Psr.returnFromTrap p c) = Psr.ps p := by
  simp only [Psr.ps]; rw [Psr.getLsbD_returnFromTrap _ _ _ (by omega)]; rfl

@[simp] theorem Psr.et_returnFromTrap (p : Word) (c : BitVec 5) :
    Psr.et (Psr.returnFromTrap p c) = true := by
  simp only [Psr.et]; rw [Psr.getLsbD_returnFromTrap _ _ _ (by omega)]; rfl

@[simp] theorem Psr.icc_returnFromTrap (p : Word) (c : BitVec 5) :
    Psr.icc (Psr.returnFromTrap p c) = Psr.icc p := by
  simp only [Psr.icc]
  iterate 4 rw [Psr.getLsbD_returnFromTrap _ _ _ (by omega)]
  rfl

theorem Psr.getLsbD_write (p : Word) (v : Word) (j : Nat) (hj : j < 32) :
    (Psr.write p v).getLsbD j =
      if j < 24 then v.getLsbD j else p.getLsbD j := by
  change @BitVec.getLsbD (8 + 24) (_ ++ _) j = _
  simp only [BitVec.getLsbD_append, BitVec.getLsbD_extractLsb']
  interval_cases j <;> rfl

@[simp] theorem Psr.impl_write (p : Word) (v : Word) :
    Psr.impl (Psr.write p v) = Psr.impl p := by
  ext j hj; simp only [Psr.impl, BitVec.getElem_extractLsb']; rw [Psr.getLsbD_write _ _ _ (by omega)]
  interval_cases j <;> rfl

@[simp] theorem Psr.ver_write (p : Word) (v : Word) :
    Psr.ver (Psr.write p v) = Psr.ver p := by
  ext j hj; simp only [Psr.ver, BitVec.getElem_extractLsb']; rw [Psr.getLsbD_write _ _ _ (by omega)]
  interval_cases j <;> rfl

@[simp] theorem Psr.reserved_write (p : Word) (v : Word) :
    Psr.reserved (Psr.write p v) = Psr.reserved v := by
  ext j hj; simp only [Psr.reserved, BitVec.getElem_extractLsb']; rw [Psr.getLsbD_write _ _ _ (by omega)]
  interval_cases j <;> rfl

@[simp] theorem Psr.pil_write (p : Word) (v : Word) :
    Psr.pil (Psr.write p v) = Psr.pil v := by
  ext j hj; simp only [Psr.pil, BitVec.getElem_extractLsb']; rw [Psr.getLsbD_write _ _ _ (by omega)]
  interval_cases j <;> rfl

@[simp] theorem Psr.cwp_write (p : Word) (v : Word) :
    Psr.cwp (Psr.write p v) = Psr.cwp v := by
  ext j hj; simp only [Psr.cwp, BitVec.getElem_extractLsb']; rw [Psr.getLsbD_write _ _ _ (by omega)]
  interval_cases j <;> rfl

@[simp] theorem Psr.ec_write (p : Word) (v : Word) :
    Psr.ec (Psr.write p v) = Psr.ec v := by
  simp only [Psr.ec]; rw [Psr.getLsbD_write _ _ _ (by omega)]; rfl

@[simp] theorem Psr.ef_write (p : Word) (v : Word) :
    Psr.ef (Psr.write p v) = Psr.ef v := by
  simp only [Psr.ef]; rw [Psr.getLsbD_write _ _ _ (by omega)]; rfl

@[simp] theorem Psr.s_write (p : Word) (v : Word) :
    Psr.s (Psr.write p v) = Psr.s v := by
  simp only [Psr.s]; rw [Psr.getLsbD_write _ _ _ (by omega)]; rfl

@[simp] theorem Psr.ps_write (p : Word) (v : Word) :
    Psr.ps (Psr.write p v) = Psr.ps v := by
  simp only [Psr.ps]; rw [Psr.getLsbD_write _ _ _ (by omega)]; rfl

@[simp] theorem Psr.et_write (p : Word) (v : Word) :
    Psr.et (Psr.write p v) = Psr.et v := by
  simp only [Psr.et]; rw [Psr.getLsbD_write _ _ _ (by omega)]; rfl

@[simp] theorem Psr.icc_write (p : Word) (v : Word) :
    Psr.icc (Psr.write p v) = Psr.icc v := by
  simp only [Psr.icc]
  iterate 4 rw [Psr.getLsbD_write _ _ _ (by omega)]
  rfl

/-! ### FSR -/

theorem Fsr.getLsbD_setFtt (p : Word) (t : BitVec 3) (j : Nat) (hj : j < 32) :
    (Fsr.setFtt p t).getLsbD j =
      if j < 15 then p.getLsbD j else if j < 18 then t.getLsbD (j - 15) else p.getLsbD j := by
  change @BitVec.getLsbD (14 + 3 + 15) (_ ++ _) j = _
  simp only [BitVec.getLsbD_append, BitVec.getLsbD_extractLsb']
  interval_cases j <;> rfl

@[simp] theorem Fsr.rd_setFtt (p : Word) (t : BitVec 3) :
    Fsr.rd (Fsr.setFtt p t) = Fsr.rd p := by
  ext j hj; simp only [Fsr.rd, BitVec.getElem_extractLsb']; rw [Fsr.getLsbD_setFtt _ _ _ (by omega)]
  interval_cases j <;> rfl

@[simp] theorem Fsr.uhigh_setFtt (p : Word) (t : BitVec 3) :
    Fsr.uhigh (Fsr.setFtt p t) = Fsr.uhigh p := by
  ext j hj; simp only [Fsr.uhigh, BitVec.getElem_extractLsb']; rw [Fsr.getLsbD_setFtt _ _ _ (by omega)]
  interval_cases j <;> rfl

@[simp] theorem Fsr.tem_setFtt (p : Word) (t : BitVec 3) :
    Fsr.tem (Fsr.setFtt p t) = Fsr.tem p := by
  ext j hj; simp only [Fsr.tem, BitVec.getElem_extractLsb']; rw [Fsr.getLsbD_setFtt _ _ _ (by omega)]
  interval_cases j <;> rfl

@[simp] theorem Fsr.ver_setFtt (p : Word) (t : BitVec 3) :
    Fsr.ver (Fsr.setFtt p t) = Fsr.ver p := by
  ext j hj; simp only [Fsr.ver, BitVec.getElem_extractLsb']; rw [Fsr.getLsbD_setFtt _ _ _ (by omega)]
  interval_cases j <;> rfl

@[simp] theorem Fsr.ftt_setFtt (p : Word) (t : BitVec 3) :
    Fsr.ftt (Fsr.setFtt p t) = t := by
  ext j hj; simp only [Fsr.ftt, BitVec.getElem_extractLsb']; rw [Fsr.getLsbD_setFtt _ _ _ (by omega)]
  interval_cases j <;> rfl

@[simp] theorem Fsr.fcc_setFtt (p : Word) (t : BitVec 3) :
    Fsr.fcc (Fsr.setFtt p t) = Fsr.fcc p := by
  ext j hj; simp only [Fsr.fcc, BitVec.getElem_extractLsb']; rw [Fsr.getLsbD_setFtt _ _ _ (by omega)]
  interval_cases j <;> rfl

@[simp] theorem Fsr.ulow_setFtt (p : Word) (t : BitVec 3) :
    Fsr.ulow (Fsr.setFtt p t) = Fsr.ulow p := by
  ext j hj; simp only [Fsr.ulow, BitVec.getElem_extractLsb']; rw [Fsr.getLsbD_setFtt _ _ _ (by omega)]
  interval_cases j <;> rfl

@[simp] theorem Fsr.aexc_setFtt (p : Word) (t : BitVec 3) :
    Fsr.aexc (Fsr.setFtt p t) = Fsr.aexc p := by
  ext j hj; simp only [Fsr.aexc, BitVec.getElem_extractLsb']; rw [Fsr.getLsbD_setFtt _ _ _ (by omega)]
  interval_cases j <;> rfl

@[simp] theorem Fsr.cexc_setFtt (p : Word) (t : BitVec 3) :
    Fsr.cexc (Fsr.setFtt p t) = Fsr.cexc p := by
  ext j hj; simp only [Fsr.cexc, BitVec.getElem_extractLsb']; rw [Fsr.getLsbD_setFtt _ _ _ (by omega)]
  interval_cases j <;> rfl

@[simp] theorem Fsr.ns_setFtt (p : Word) (t : BitVec 3) :
    Fsr.ns (Fsr.setFtt p t) = Fsr.ns p := by
  simp only [Fsr.ns]; rw [Fsr.getLsbD_setFtt _ _ _ (by omega)]; rfl

@[simp] theorem Fsr.res_setFtt (p : Word) (t : BitVec 3) :
    Fsr.res (Fsr.setFtt p t) = Fsr.res p := by
  simp only [Fsr.res]; rw [Fsr.getLsbD_setFtt _ _ _ (by omega)]; rfl

@[simp] theorem Fsr.qne_setFtt (p : Word) (t : BitVec 3) :
    Fsr.qne (Fsr.setFtt p t) = Fsr.qne p := by
  simp only [Fsr.qne]; rw [Fsr.getLsbD_setFtt _ _ _ (by omega)]; rfl

theorem Fsr.getLsbD_setFcc (p : Word) (c : BitVec 2) (j : Nat) (hj : j < 32) :
    (Fsr.setFcc p c).getLsbD j =
      if j < 12 then p.getLsbD j else if j < 14 then c.getLsbD (j - 12) else p.getLsbD j := by
  change @BitVec.getLsbD (18 + 2 + 12) (_ ++ _) j = _
  simp only [BitVec.getLsbD_append, BitVec.getLsbD_extractLsb']
  interval_cases j <;> rfl

@[simp] theorem Fsr.rd_setFcc (p : Word) (c : BitVec 2) :
    Fsr.rd (Fsr.setFcc p c) = Fsr.rd p := by
  ext j hj; simp only [Fsr.rd, BitVec.getElem_extractLsb']; rw [Fsr.getLsbD_setFcc _ _ _ (by omega)]
  interval_cases j <;> rfl

@[simp] theorem Fsr.uhigh_setFcc (p : Word) (c : BitVec 2) :
    Fsr.uhigh (Fsr.setFcc p c) = Fsr.uhigh p := by
  ext j hj; simp only [Fsr.uhigh, BitVec.getElem_extractLsb']; rw [Fsr.getLsbD_setFcc _ _ _ (by omega)]
  interval_cases j <;> rfl

@[simp] theorem Fsr.tem_setFcc (p : Word) (c : BitVec 2) :
    Fsr.tem (Fsr.setFcc p c) = Fsr.tem p := by
  ext j hj; simp only [Fsr.tem, BitVec.getElem_extractLsb']; rw [Fsr.getLsbD_setFcc _ _ _ (by omega)]
  interval_cases j <;> rfl

@[simp] theorem Fsr.ver_setFcc (p : Word) (c : BitVec 2) :
    Fsr.ver (Fsr.setFcc p c) = Fsr.ver p := by
  ext j hj; simp only [Fsr.ver, BitVec.getElem_extractLsb']; rw [Fsr.getLsbD_setFcc _ _ _ (by omega)]
  interval_cases j <;> rfl

@[simp] theorem Fsr.ftt_setFcc (p : Word) (c : BitVec 2) :
    Fsr.ftt (Fsr.setFcc p c) = Fsr.ftt p := by
  ext j hj; simp only [Fsr.ftt, BitVec.getElem_extractLsb']; rw [Fsr.getLsbD_setFcc _ _ _ (by omega)]
  interval_cases j <;> rfl

@[simp] theorem Fsr.fcc_setFcc (p : Word) (c : BitVec 2) :
    Fsr.fcc (Fsr.setFcc p c) = c := by
  ext j hj; simp only [Fsr.fcc, BitVec.getElem_extractLsb']; rw [Fsr.getLsbD_setFcc _ _ _ (by omega)]
  interval_cases j <;> rfl

@[simp] theorem Fsr.ulow_setFcc (p : Word) (c : BitVec 2) :
    Fsr.ulow (Fsr.setFcc p c) = Fsr.ulow p := by
  ext j hj; simp only [Fsr.ulow, BitVec.getElem_extractLsb']; rw [Fsr.getLsbD_setFcc _ _ _ (by omega)]
  interval_cases j <;> rfl

@[simp] theorem Fsr.aexc_setFcc (p : Word) (c : BitVec 2) :
    Fsr.aexc (Fsr.setFcc p c) = Fsr.aexc p := by
  ext j hj; simp only [Fsr.aexc, BitVec.getElem_extractLsb']; rw [Fsr.getLsbD_setFcc _ _ _ (by omega)]
  interval_cases j <;> rfl

@[simp] theorem Fsr.cexc_setFcc (p : Word) (c : BitVec 2) :
    Fsr.cexc (Fsr.setFcc p c) = Fsr.cexc p := by
  ext j hj; simp only [Fsr.cexc, BitVec.getElem_extractLsb']; rw [Fsr.getLsbD_setFcc _ _ _ (by omega)]
  interval_cases j <;> rfl

@[simp] theorem Fsr.ns_setFcc (p : Word) (c : BitVec 2) :
    Fsr.ns (Fsr.setFcc p c) = Fsr.ns p := by
  simp only [Fsr.ns]; rw [Fsr.getLsbD_setFcc _ _ _ (by omega)]; rfl

@[simp] theorem Fsr.res_setFcc (p : Word) (c : BitVec 2) :
    Fsr.res (Fsr.setFcc p c) = Fsr.res p := by
  simp only [Fsr.res]; rw [Fsr.getLsbD_setFcc _ _ _ (by omega)]; rfl

@[simp] theorem Fsr.qne_setFcc (p : Word) (c : BitVec 2) :
    Fsr.qne (Fsr.setFcc p c) = Fsr.qne p := by
  simp only [Fsr.qne]; rw [Fsr.getLsbD_setFcc _ _ _ (by omega)]; rfl

theorem Fsr.getLsbD_setCexc (p : Word) (e : BitVec 5) (j : Nat) (hj : j < 32) :
    (Fsr.setCexc p e).getLsbD j =
      if j < 5 then e.getLsbD j else p.getLsbD j := by
  change @BitVec.getLsbD (27 + 5) (_ ++ _) j = _
  simp only [BitVec.getLsbD_append, BitVec.getLsbD_extractLsb']
  interval_cases j <;> rfl

@[simp] theorem Fsr.rd_setCexc (p : Word) (e : BitVec 5) :
    Fsr.rd (Fsr.setCexc p e) = Fsr.rd p := by
  ext j hj; simp only [Fsr.rd, BitVec.getElem_extractLsb']; rw [Fsr.getLsbD_setCexc _ _ _ (by omega)]
  interval_cases j <;> rfl

@[simp] theorem Fsr.uhigh_setCexc (p : Word) (e : BitVec 5) :
    Fsr.uhigh (Fsr.setCexc p e) = Fsr.uhigh p := by
  ext j hj; simp only [Fsr.uhigh, BitVec.getElem_extractLsb']; rw [Fsr.getLsbD_setCexc _ _ _ (by omega)]
  interval_cases j <;> rfl

@[simp] theorem Fsr.tem_setCexc (p : Word) (e : BitVec 5) :
    Fsr.tem (Fsr.setCexc p e) = Fsr.tem p := by
  ext j hj; simp only [Fsr.tem, BitVec.getElem_extractLsb']; rw [Fsr.getLsbD_setCexc _ _ _ (by omega)]
  interval_cases j <;> rfl

@[simp] theorem Fsr.ver_setCexc (p : Word) (e : BitVec 5) :
    Fsr.ver (Fsr.setCexc p e) = Fsr.ver p := by
  ext j hj; simp only [Fsr.ver, BitVec.getElem_extractLsb']; rw [Fsr.getLsbD_setCexc _ _ _ (by omega)]
  interval_cases j <;> rfl

@[simp] theorem Fsr.ftt_setCexc (p : Word) (e : BitVec 5) :
    Fsr.ftt (Fsr.setCexc p e) = Fsr.ftt p := by
  ext j hj; simp only [Fsr.ftt, BitVec.getElem_extractLsb']; rw [Fsr.getLsbD_setCexc _ _ _ (by omega)]
  interval_cases j <;> rfl

@[simp] theorem Fsr.fcc_setCexc (p : Word) (e : BitVec 5) :
    Fsr.fcc (Fsr.setCexc p e) = Fsr.fcc p := by
  ext j hj; simp only [Fsr.fcc, BitVec.getElem_extractLsb']; rw [Fsr.getLsbD_setCexc _ _ _ (by omega)]
  interval_cases j <;> rfl

@[simp] theorem Fsr.ulow_setCexc (p : Word) (e : BitVec 5) :
    Fsr.ulow (Fsr.setCexc p e) = Fsr.ulow p := by
  ext j hj; simp only [Fsr.ulow, BitVec.getElem_extractLsb']; rw [Fsr.getLsbD_setCexc _ _ _ (by omega)]
  interval_cases j <;> rfl

@[simp] theorem Fsr.aexc_setCexc (p : Word) (e : BitVec 5) :
    Fsr.aexc (Fsr.setCexc p e) = Fsr.aexc p := by
  ext j hj; simp only [Fsr.aexc, BitVec.getElem_extractLsb']; rw [Fsr.getLsbD_setCexc _ _ _ (by omega)]
  interval_cases j <;> rfl

@[simp] theorem Fsr.cexc_setCexc (p : Word) (e : BitVec 5) :
    Fsr.cexc (Fsr.setCexc p e) = e := by
  ext j hj; simp only [Fsr.cexc, BitVec.getElem_extractLsb']; rw [Fsr.getLsbD_setCexc _ _ _ (by omega)]
  interval_cases j <;> rfl

@[simp] theorem Fsr.ns_setCexc (p : Word) (e : BitVec 5) :
    Fsr.ns (Fsr.setCexc p e) = Fsr.ns p := by
  simp only [Fsr.ns]; rw [Fsr.getLsbD_setCexc _ _ _ (by omega)]; rfl

@[simp] theorem Fsr.res_setCexc (p : Word) (e : BitVec 5) :
    Fsr.res (Fsr.setCexc p e) = Fsr.res p := by
  simp only [Fsr.res]; rw [Fsr.getLsbD_setCexc _ _ _ (by omega)]; rfl

@[simp] theorem Fsr.qne_setCexc (p : Word) (e : BitVec 5) :
    Fsr.qne (Fsr.setCexc p e) = Fsr.qne p := by
  simp only [Fsr.qne]; rw [Fsr.getLsbD_setCexc _ _ _ (by omega)]; rfl

theorem Fsr.getLsbD_setAexc (p : Word) (e : BitVec 5) (j : Nat) (hj : j < 32) :
    (Fsr.setAexc p e).getLsbD j =
      if j < 5 then p.getLsbD j else if j < 10 then e.getLsbD (j - 5) else p.getLsbD j := by
  change @BitVec.getLsbD (22 + 5 + 5) (_ ++ _) j = _
  simp only [BitVec.getLsbD_append, BitVec.getLsbD_extractLsb']
  interval_cases j <;> rfl

@[simp] theorem Fsr.rd_setAexc (p : Word) (e : BitVec 5) :
    Fsr.rd (Fsr.setAexc p e) = Fsr.rd p := by
  ext j hj; simp only [Fsr.rd, BitVec.getElem_extractLsb']; rw [Fsr.getLsbD_setAexc _ _ _ (by omega)]
  interval_cases j <;> rfl

@[simp] theorem Fsr.uhigh_setAexc (p : Word) (e : BitVec 5) :
    Fsr.uhigh (Fsr.setAexc p e) = Fsr.uhigh p := by
  ext j hj; simp only [Fsr.uhigh, BitVec.getElem_extractLsb']; rw [Fsr.getLsbD_setAexc _ _ _ (by omega)]
  interval_cases j <;> rfl

@[simp] theorem Fsr.tem_setAexc (p : Word) (e : BitVec 5) :
    Fsr.tem (Fsr.setAexc p e) = Fsr.tem p := by
  ext j hj; simp only [Fsr.tem, BitVec.getElem_extractLsb']; rw [Fsr.getLsbD_setAexc _ _ _ (by omega)]
  interval_cases j <;> rfl

@[simp] theorem Fsr.ver_setAexc (p : Word) (e : BitVec 5) :
    Fsr.ver (Fsr.setAexc p e) = Fsr.ver p := by
  ext j hj; simp only [Fsr.ver, BitVec.getElem_extractLsb']; rw [Fsr.getLsbD_setAexc _ _ _ (by omega)]
  interval_cases j <;> rfl

@[simp] theorem Fsr.ftt_setAexc (p : Word) (e : BitVec 5) :
    Fsr.ftt (Fsr.setAexc p e) = Fsr.ftt p := by
  ext j hj; simp only [Fsr.ftt, BitVec.getElem_extractLsb']; rw [Fsr.getLsbD_setAexc _ _ _ (by omega)]
  interval_cases j <;> rfl

@[simp] theorem Fsr.fcc_setAexc (p : Word) (e : BitVec 5) :
    Fsr.fcc (Fsr.setAexc p e) = Fsr.fcc p := by
  ext j hj; simp only [Fsr.fcc, BitVec.getElem_extractLsb']; rw [Fsr.getLsbD_setAexc _ _ _ (by omega)]
  interval_cases j <;> rfl

@[simp] theorem Fsr.ulow_setAexc (p : Word) (e : BitVec 5) :
    Fsr.ulow (Fsr.setAexc p e) = Fsr.ulow p := by
  ext j hj; simp only [Fsr.ulow, BitVec.getElem_extractLsb']; rw [Fsr.getLsbD_setAexc _ _ _ (by omega)]
  interval_cases j <;> rfl

@[simp] theorem Fsr.aexc_setAexc (p : Word) (e : BitVec 5) :
    Fsr.aexc (Fsr.setAexc p e) = e := by
  ext j hj; simp only [Fsr.aexc, BitVec.getElem_extractLsb']; rw [Fsr.getLsbD_setAexc _ _ _ (by omega)]
  interval_cases j <;> rfl

@[simp] theorem Fsr.cexc_setAexc (p : Word) (e : BitVec 5) :
    Fsr.cexc (Fsr.setAexc p e) = Fsr.cexc p := by
  ext j hj; simp only [Fsr.cexc, BitVec.getElem_extractLsb']; rw [Fsr.getLsbD_setAexc _ _ _ (by omega)]
  interval_cases j <;> rfl

@[simp] theorem Fsr.ns_setAexc (p : Word) (e : BitVec 5) :
    Fsr.ns (Fsr.setAexc p e) = Fsr.ns p := by
  simp only [Fsr.ns]; rw [Fsr.getLsbD_setAexc _ _ _ (by omega)]; rfl

@[simp] theorem Fsr.res_setAexc (p : Word) (e : BitVec 5) :
    Fsr.res (Fsr.setAexc p e) = Fsr.res p := by
  simp only [Fsr.res]; rw [Fsr.getLsbD_setAexc _ _ _ (by omega)]; rfl

@[simp] theorem Fsr.qne_setAexc (p : Word) (e : BitVec 5) :
    Fsr.qne (Fsr.setAexc p e) = Fsr.qne p := by
  simp only [Fsr.qne]; rw [Fsr.getLsbD_setAexc _ _ _ (by omega)]; rfl

theorem Fsr.getLsbD_load (p : Word) (v : Word) (j : Nat) (hj : j < 32) :
    (Fsr.load p v).getLsbD j =
      if j < 14 then v.getLsbD j else if j < 21 then p.getLsbD j else if j < 32 then v.getLsbD j else p.getLsbD j := by
  change @BitVec.getLsbD (11 + 7 + 14) (_ ++ _) j = _
  simp only [BitVec.getLsbD_append, BitVec.getLsbD_extractLsb']
  interval_cases j <;> rfl

@[simp] theorem Fsr.rd_load (p : Word) (v : Word) :
    Fsr.rd (Fsr.load p v) = Fsr.rd v := by
  ext j hj; simp only [Fsr.rd, BitVec.getElem_extractLsb']; rw [Fsr.getLsbD_load _ _ _ (by omega)]
  interval_cases j <;> rfl

@[simp] theorem Fsr.uhigh_load (p : Word) (v : Word) :
    Fsr.uhigh (Fsr.load p v) = Fsr.uhigh v := by
  ext j hj; simp only [Fsr.uhigh, BitVec.getElem_extractLsb']; rw [Fsr.getLsbD_load _ _ _ (by omega)]
  interval_cases j <;> rfl

@[simp] theorem Fsr.tem_load (p : Word) (v : Word) :
    Fsr.tem (Fsr.load p v) = Fsr.tem v := by
  ext j hj; simp only [Fsr.tem, BitVec.getElem_extractLsb']; rw [Fsr.getLsbD_load _ _ _ (by omega)]
  interval_cases j <;> rfl

@[simp] theorem Fsr.ver_load (p : Word) (v : Word) :
    Fsr.ver (Fsr.load p v) = Fsr.ver p := by
  ext j hj; simp only [Fsr.ver, BitVec.getElem_extractLsb']; rw [Fsr.getLsbD_load _ _ _ (by omega)]
  interval_cases j <;> rfl

@[simp] theorem Fsr.ftt_load (p : Word) (v : Word) :
    Fsr.ftt (Fsr.load p v) = Fsr.ftt p := by
  ext j hj; simp only [Fsr.ftt, BitVec.getElem_extractLsb']; rw [Fsr.getLsbD_load _ _ _ (by omega)]
  interval_cases j <;> rfl

@[simp] theorem Fsr.fcc_load (p : Word) (v : Word) :
    Fsr.fcc (Fsr.load p v) = Fsr.fcc v := by
  ext j hj; simp only [Fsr.fcc, BitVec.getElem_extractLsb']; rw [Fsr.getLsbD_load _ _ _ (by omega)]
  interval_cases j <;> rfl

@[simp] theorem Fsr.ulow_load (p : Word) (v : Word) :
    Fsr.ulow (Fsr.load p v) = Fsr.ulow v := by
  ext j hj; simp only [Fsr.ulow, BitVec.getElem_extractLsb']; rw [Fsr.getLsbD_load _ _ _ (by omega)]
  interval_cases j <;> rfl

@[simp] theorem Fsr.aexc_load (p : Word) (v : Word) :
    Fsr.aexc (Fsr.load p v) = Fsr.aexc v := by
  ext j hj; simp only [Fsr.aexc, BitVec.getElem_extractLsb']; rw [Fsr.getLsbD_load _ _ _ (by omega)]
  interval_cases j <;> rfl

@[simp] theorem Fsr.cexc_load (p : Word) (v : Word) :
    Fsr.cexc (Fsr.load p v) = Fsr.cexc v := by
  ext j hj; simp only [Fsr.cexc, BitVec.getElem_extractLsb']; rw [Fsr.getLsbD_load _ _ _ (by omega)]
  interval_cases j <;> rfl

@[simp] theorem Fsr.ns_load (p : Word) (v : Word) :
    Fsr.ns (Fsr.load p v) = Fsr.ns v := by
  simp only [Fsr.ns]; rw [Fsr.getLsbD_load _ _ _ (by omega)]; rfl

@[simp] theorem Fsr.res_load (p : Word) (v : Word) :
    Fsr.res (Fsr.load p v) = Fsr.res v := by
  simp only [Fsr.res]; rw [Fsr.getLsbD_load _ _ _ (by omega)]; rfl

@[simp] theorem Fsr.qne_load (p : Word) (v : Word) :
    Fsr.qne (Fsr.load p v) = Fsr.qne p := by
  simp only [Fsr.qne]; rw [Fsr.getLsbD_load _ _ _ (by omega)]; rfl

@[simp] theorem Fsr.rd_complete (p : Word) (e : BitVec 5) : Fsr.rd (Fsr.complete p e) = Fsr.rd p := by
  simp [Fsr.complete]

@[simp] theorem Fsr.uhigh_complete (p : Word) (e : BitVec 5) : Fsr.uhigh (Fsr.complete p e) = Fsr.uhigh p := by
  simp [Fsr.complete]

@[simp] theorem Fsr.tem_complete (p : Word) (e : BitVec 5) : Fsr.tem (Fsr.complete p e) = Fsr.tem p := by
  simp [Fsr.complete]

@[simp] theorem Fsr.ver_complete (p : Word) (e : BitVec 5) : Fsr.ver (Fsr.complete p e) = Fsr.ver p := by
  simp [Fsr.complete]

@[simp] theorem Fsr.ftt_complete (p : Word) (e : BitVec 5) : Fsr.ftt (Fsr.complete p e) = 0 := by
  simp [Fsr.complete]

@[simp] theorem Fsr.fcc_complete (p : Word) (e : BitVec 5) : Fsr.fcc (Fsr.complete p e) = Fsr.fcc p := by
  simp [Fsr.complete]

@[simp] theorem Fsr.ulow_complete (p : Word) (e : BitVec 5) : Fsr.ulow (Fsr.complete p e) = Fsr.ulow p := by
  simp [Fsr.complete]

@[simp] theorem Fsr.aexc_complete (p : Word) (e : BitVec 5) : Fsr.aexc (Fsr.complete p e) = Fsr.aexc p ||| e := by
  simp [Fsr.complete]

@[simp] theorem Fsr.cexc_complete (p : Word) (e : BitVec 5) : Fsr.cexc (Fsr.complete p e) = e := by
  simp [Fsr.complete]

@[simp] theorem Fsr.ns_complete (p : Word) (e : BitVec 5) : Fsr.ns (Fsr.complete p e) = Fsr.ns p := by
  simp [Fsr.complete]

@[simp] theorem Fsr.res_complete (p : Word) (e : BitVec 5) : Fsr.res (Fsr.complete p e) = Fsr.res p := by
  simp [Fsr.complete]

@[simp] theorem Fsr.qne_complete (p : Word) (e : BitVec 5) : Fsr.qne (Fsr.complete p e) = Fsr.qne p := by
  simp [Fsr.complete]

@[simp] theorem Fsr.rd_ieeeTrap (p : Word) (e : BitVec 5) : Fsr.rd (Fsr.ieeeTrap p e) = Fsr.rd p := by
  simp [Fsr.ieeeTrap]

@[simp] theorem Fsr.uhigh_ieeeTrap (p : Word) (e : BitVec 5) : Fsr.uhigh (Fsr.ieeeTrap p e) = Fsr.uhigh p := by
  simp [Fsr.ieeeTrap]

@[simp] theorem Fsr.tem_ieeeTrap (p : Word) (e : BitVec 5) : Fsr.tem (Fsr.ieeeTrap p e) = Fsr.tem p := by
  simp [Fsr.ieeeTrap]

@[simp] theorem Fsr.ver_ieeeTrap (p : Word) (e : BitVec 5) : Fsr.ver (Fsr.ieeeTrap p e) = Fsr.ver p := by
  simp [Fsr.ieeeTrap]

@[simp] theorem Fsr.ftt_ieeeTrap (p : Word) (e : BitVec 5) : Fsr.ftt (Fsr.ieeeTrap p e) = 1 := by
  simp [Fsr.ieeeTrap]

@[simp] theorem Fsr.fcc_ieeeTrap (p : Word) (e : BitVec 5) : Fsr.fcc (Fsr.ieeeTrap p e) = Fsr.fcc p := by
  simp [Fsr.ieeeTrap]

@[simp] theorem Fsr.ulow_ieeeTrap (p : Word) (e : BitVec 5) : Fsr.ulow (Fsr.ieeeTrap p e) = Fsr.ulow p := by
  simp [Fsr.ieeeTrap]

@[simp] theorem Fsr.aexc_ieeeTrap (p : Word) (e : BitVec 5) : Fsr.aexc (Fsr.ieeeTrap p e) = Fsr.aexc p := by
  simp [Fsr.ieeeTrap]

@[simp] theorem Fsr.cexc_ieeeTrap (p : Word) (e : BitVec 5) : Fsr.cexc (Fsr.ieeeTrap p e) = e := by
  simp [Fsr.ieeeTrap]

@[simp] theorem Fsr.ns_ieeeTrap (p : Word) (e : BitVec 5) : Fsr.ns (Fsr.ieeeTrap p e) = Fsr.ns p := by
  simp [Fsr.ieeeTrap]

@[simp] theorem Fsr.res_ieeeTrap (p : Word) (e : BitVec 5) : Fsr.res (Fsr.ieeeTrap p e) = Fsr.res p := by
  simp [Fsr.ieeeTrap]

@[simp] theorem Fsr.qne_ieeeTrap (p : Word) (e : BitVec 5) : Fsr.qne (Fsr.ieeeTrap p e) = Fsr.qne p := by
  simp [Fsr.ieeeTrap]

@[simp] theorem Fsr.rd_unimplementedTrap (p : Word) : Fsr.rd (Fsr.unimplementedTrap p) = Fsr.rd p := by
  simp [Fsr.unimplementedTrap]

@[simp] theorem Fsr.uhigh_unimplementedTrap (p : Word) : Fsr.uhigh (Fsr.unimplementedTrap p) = Fsr.uhigh p := by
  simp [Fsr.unimplementedTrap]

@[simp] theorem Fsr.tem_unimplementedTrap (p : Word) : Fsr.tem (Fsr.unimplementedTrap p) = Fsr.tem p := by
  simp [Fsr.unimplementedTrap]

@[simp] theorem Fsr.ver_unimplementedTrap (p : Word) : Fsr.ver (Fsr.unimplementedTrap p) = Fsr.ver p := by
  simp [Fsr.unimplementedTrap]

@[simp] theorem Fsr.ftt_unimplementedTrap (p : Word) : Fsr.ftt (Fsr.unimplementedTrap p) = 3 := by
  simp [Fsr.unimplementedTrap]

@[simp] theorem Fsr.fcc_unimplementedTrap (p : Word) : Fsr.fcc (Fsr.unimplementedTrap p) = Fsr.fcc p := by
  simp [Fsr.unimplementedTrap]

@[simp] theorem Fsr.ulow_unimplementedTrap (p : Word) : Fsr.ulow (Fsr.unimplementedTrap p) = Fsr.ulow p := by
  simp [Fsr.unimplementedTrap]

@[simp] theorem Fsr.aexc_unimplementedTrap (p : Word) : Fsr.aexc (Fsr.unimplementedTrap p) = Fsr.aexc p := by
  simp [Fsr.unimplementedTrap]

@[simp] theorem Fsr.cexc_unimplementedTrap (p : Word) : Fsr.cexc (Fsr.unimplementedTrap p) = Fsr.cexc p := by
  simp [Fsr.unimplementedTrap]

@[simp] theorem Fsr.ns_unimplementedTrap (p : Word) : Fsr.ns (Fsr.unimplementedTrap p) = Fsr.ns p := by
  simp [Fsr.unimplementedTrap]

@[simp] theorem Fsr.res_unimplementedTrap (p : Word) : Fsr.res (Fsr.unimplementedTrap p) = Fsr.res p := by
  simp [Fsr.unimplementedTrap]

@[simp] theorem Fsr.qne_unimplementedTrap (p : Word) : Fsr.qne (Fsr.unimplementedTrap p) = Fsr.qne p := by
  simp [Fsr.unimplementedTrap]

/-! ### TBR -/

theorem Tbr.getLsbD_setTt (p : Word) (t : BitVec 8) (j : Nat) (hj : j < 32) :
    (Tbr.setTt p t).getLsbD j =
      if j < 4 then p.getLsbD j else if j < 12 then t.getLsbD (j - 4) else p.getLsbD j := by
  change @BitVec.getLsbD (20 + 8 + 4) (_ ++ _) j = _
  simp only [BitVec.getLsbD_append, BitVec.getLsbD_extractLsb']
  interval_cases j <;> rfl

@[simp] theorem Tbr.tba_setTt (p : Word) (t : BitVec 8) :
    Tbr.tba (Tbr.setTt p t) = Tbr.tba p := by
  ext j hj; simp only [Tbr.tba, BitVec.getElem_extractLsb']; rw [Tbr.getLsbD_setTt _ _ _ (by omega)]
  interval_cases j <;> rfl

@[simp] theorem Tbr.tt_setTt (p : Word) (t : BitVec 8) :
    Tbr.tt (Tbr.setTt p t) = t := by
  ext j hj; simp only [Tbr.tt, BitVec.getElem_extractLsb']; rw [Tbr.getLsbD_setTt _ _ _ (by omega)]
  interval_cases j <;> rfl

@[simp] theorem Tbr.zero_setTt (p : Word) (t : BitVec 8) :
    Tbr.zero (Tbr.setTt p t) = Tbr.zero p := by
  ext j hj; simp only [Tbr.zero, BitVec.getElem_extractLsb']; rw [Tbr.getLsbD_setTt _ _ _ (by omega)]
  interval_cases j <;> rfl

theorem Tbr.getLsbD_setTba (p : Word) (v : Word) (j : Nat) (hj : j < 32) :
    (Tbr.setTba p v).getLsbD j =
      if j < 12 then p.getLsbD j else if j < 32 then v.getLsbD j else p.getLsbD j := by
  change @BitVec.getLsbD (20 + 12) (_ ++ _) j = _
  simp only [BitVec.getLsbD_append, BitVec.getLsbD_extractLsb']
  interval_cases j <;> rfl

@[simp] theorem Tbr.tba_setTba (p : Word) (v : Word) :
    Tbr.tba (Tbr.setTba p v) = Tbr.tba v := by
  ext j hj; simp only [Tbr.tba, BitVec.getElem_extractLsb']; rw [Tbr.getLsbD_setTba _ _ _ (by omega)]
  interval_cases j <;> rfl

@[simp] theorem Tbr.tt_setTba (p : Word) (v : Word) :
    Tbr.tt (Tbr.setTba p v) = Tbr.tt p := by
  ext j hj; simp only [Tbr.tt, BitVec.getElem_extractLsb']; rw [Tbr.getLsbD_setTba _ _ _ (by omega)]
  interval_cases j <;> rfl

@[simp] theorem Tbr.zero_setTba (p : Word) (v : Word) :
    Tbr.zero (Tbr.setTba p v) = Tbr.zero p := by
  ext j hj; simp only [Tbr.zero, BitVec.getElem_extractLsb']; rw [Tbr.getLsbD_setTba _ _ _ (by omega)]
  interval_cases j <;> rfl

theorem Tbr.getLsbD_entry (p : Word) (t : BitVec 8) (j : Nat) (hj : j < 32) :
    (Tbr.entry p t).getLsbD j =
      if j < 4 then false else if j < 12 then t.getLsbD (j - 4) else p.getLsbD j := by
  change @BitVec.getLsbD (20 + 8 + 4) (_ ++ _) j = _
  simp only [BitVec.getLsbD_append, BitVec.getLsbD_extractLsb', Tbr.tba]
  interval_cases j <;> rfl

@[simp] theorem Tbr.tba_entry (p : Word) (t : BitVec 8) :
    Tbr.tba (Tbr.entry p t) = Tbr.tba p := by
  ext j hj; simp only [Tbr.tba, BitVec.getElem_extractLsb']; rw [Tbr.getLsbD_entry _ _ _ (by omega)]
  interval_cases j <;> rfl

@[simp] theorem Tbr.tt_entry (p : Word) (t : BitVec 8) :
    Tbr.tt (Tbr.entry p t) = t := by
  ext j hj; simp only [Tbr.tt, BitVec.getElem_extractLsb']; rw [Tbr.getLsbD_entry _ _ _ (by omega)]
  interval_cases j <;> rfl

@[simp] theorem Tbr.zero_entry (p : Word) (t : BitVec 8) :
    Tbr.zero (Tbr.entry p t) = 0#4 := by
  ext j hj; simp only [Tbr.zero, BitVec.getElem_extractLsb']; rw [Tbr.getLsbD_entry _ _ _ (by omega)]
  interval_cases j <;> simp

/-! ### The structured views -/

theorem packPSR_castToPSR (p : Word) : packPSR (castToPSR p) = p := by
  apply BitVec.eq_of_getLsbD_eq
  intro j hj
  change @BitVec.getLsbD (4 + 4 + 1 + 1 + 1 + 1 + 6 + 1 + 1 + 4 + 1 + 1 + 1 + 5) (_ ++ _) j = _
  simp only [castToPSR, Psr.impl, Psr.ver, Psr.icc, Psr.reserved, Psr.ec, Psr.ef, Psr.pil, Psr.s, Psr.ps, Psr.et,
    Psr.cwp, BitVec.getLsbD_append, BitVec.getLsbD_extractLsb', BitVec.getLsbD_ofBool]
  interval_cases j <;> rfl

theorem packFSR_castToFSR (p : Word) : packFSR (castToFSR p) = p := by
  apply BitVec.eq_of_getLsbD_eq
  intro j hj
  change @BitVec.getLsbD (2 + 2 + 5 + 1 + 1 + 3 + 3 + 1 + 2 + 2 + 5 + 5) (_ ++ _) j = _
  simp only [castToFSR, Fsr.rd, Fsr.uhigh, Fsr.tem, Fsr.ns, Fsr.res, Fsr.ver, Fsr.ftt, Fsr.qne, Fsr.fcc, Fsr.ulow,
    Fsr.aexc, Fsr.cexc, BitVec.getLsbD_append, BitVec.getLsbD_extractLsb', BitVec.getLsbD_ofBool]
  interval_cases j <;> rfl

end Sys2Proof.Machine
end

