-- ==== Sys2Proof/Laws/State.lean ====
section
/-! SUPPORT. One lemma per field of the state per update of it, so that no proof unfolds an update. -/

namespace Sys2Proof.Machine

/-! ### writeSlot -/

@[simp] theorem State.writeSlot_cfg (s : State) (sl : Slot) (v : Word) : (s.writeSlot sl v).cfg = s.cfg := rfl
@[simp] theorem State.writeSlot_g (s : State) (sl : Slot) (v : Word) :
    (s.writeSlot sl v).g = sl.writeGlobals v s.g := rfl
@[simp] theorem State.writeSlot_w (s : State) (sl : Slot) (v : Word) :
    (s.writeSlot sl v).w = sl.writeWindowed v s.w := rfl
@[simp] theorem State.writeSlot_f (s : State) (sl : Slot) (v : Word) : (s.writeSlot sl v).f = s.f := rfl
@[simp] theorem State.writeSlot_pc (s : State) (sl : Slot) (v : Word) : (s.writeSlot sl v).pc = s.pc := rfl
@[simp] theorem State.writeSlot_npc (s : State) (sl : Slot) (v : Word) : (s.writeSlot sl v).npc = s.npc := rfl
@[simp] theorem State.writeSlot_psr (s : State) (sl : Slot) (v : Word) : (s.writeSlot sl v).psr = s.psr := rfl
@[simp] theorem State.writeSlot_fsr (s : State) (sl : Slot) (v : Word) : (s.writeSlot sl v).fsr = s.fsr := rfl
@[simp] theorem State.writeSlot_tbr (s : State) (sl : Slot) (v : Word) : (s.writeSlot sl v).tbr = s.tbr := rfl
@[simp] theorem State.writeSlot_wim (s : State) (sl : Slot) (v : Word) : (s.writeSlot sl v).wim = s.wim := rfl
@[simp] theorem State.writeSlot_y (s : State) (sl : Slot) (v : Word) : (s.writeSlot sl v).y = s.y := rfl
@[simp] theorem State.writeSlot_errorMode (s : State) (sl : Slot) (v : Word) :
    (s.writeSlot sl v).errorMode = s.errorMode := rfl
@[simp] theorem State.writeSlot_viewOverride (s : State) (sl : Slot) (v : Word) :
    (s.writeSlot sl v).viewOverride = s.viewOverride := rfl
@[simp] theorem State.writeSlot_last (s : State) (sl : Slot) (v : Word) : (s.writeSlot sl v).last = s.last := rfl
@[simp] theorem State.writeSlot_mem (s : State) (sl : Slot) (v : Word) : (s.writeSlot sl v).mem = s.mem := rfl
@[simp] theorem State.writeSlot_bps (s : State) (sl : Slot) (v : Word) : (s.writeSlot sl v).bps = s.bps := rfl
@[simp] theorem State.writeSlot_report (s : State) (sl : Slot) (v : Word) :
    (s.writeSlot sl v).report = s.report := rfl
@[simp] theorem State.writeSlot_writes (s : State) (sl : Slot) (v : Word) :
    (s.writeSlot sl v).writes = s.writes := rfl

/-! ### setXIn -/

@[simp] theorem State.setXIn_cfg (s : State) (n : Nat) (r : Reg) (v : Word) : (s.setXIn n r v).cfg = s.cfg := rfl
@[simp] theorem State.setXIn_f (s : State) (n : Nat) (r : Reg) (v : Word) : (s.setXIn n r v).f = s.f := rfl
@[simp] theorem State.setXIn_pc (s : State) (n : Nat) (r : Reg) (v : Word) : (s.setXIn n r v).pc = s.pc := rfl
@[simp] theorem State.setXIn_npc (s : State) (n : Nat) (r : Reg) (v : Word) : (s.setXIn n r v).npc = s.npc := rfl
@[simp] theorem State.setXIn_psr (s : State) (n : Nat) (r : Reg) (v : Word) : (s.setXIn n r v).psr = s.psr := rfl
@[simp] theorem State.setXIn_fsr (s : State) (n : Nat) (r : Reg) (v : Word) : (s.setXIn n r v).fsr = s.fsr := rfl
@[simp] theorem State.setXIn_tbr (s : State) (n : Nat) (r : Reg) (v : Word) : (s.setXIn n r v).tbr = s.tbr := rfl
@[simp] theorem State.setXIn_wim (s : State) (n : Nat) (r : Reg) (v : Word) : (s.setXIn n r v).wim = s.wim := rfl
@[simp] theorem State.setXIn_y (s : State) (n : Nat) (r : Reg) (v : Word) : (s.setXIn n r v).y = s.y := rfl
@[simp] theorem State.setXIn_errorMode (s : State) (n : Nat) (r : Reg) (v : Word) :
    (s.setXIn n r v).errorMode = s.errorMode := rfl
@[simp] theorem State.setXIn_viewOverride (s : State) (n : Nat) (r : Reg) (v : Word) :
    (s.setXIn n r v).viewOverride = s.viewOverride := rfl
@[simp] theorem State.setXIn_last (s : State) (n : Nat) (r : Reg) (v : Word) : (s.setXIn n r v).last = s.last := rfl
@[simp] theorem State.setXIn_mem (s : State) (n : Nat) (r : Reg) (v : Word) : (s.setXIn n r v).mem = s.mem := rfl
@[simp] theorem State.setXIn_bps (s : State) (n : Nat) (r : Reg) (v : Word) : (s.setXIn n r v).bps = s.bps := rfl
@[simp] theorem State.setXIn_report (s : State) (n : Nat) (r : Reg) (v : Word) :
    (s.setXIn n r v).report = s.report := rfl
@[simp] theorem State.setXIn_writes (s : State) (n : Nat) (r : Reg) (v : Word) :
    (s.setXIn n r v).writes = s.writes := rfl

/-! ### setX -/

@[simp] theorem State.setX_cfg (s : State) (r : Reg) (v : Word) : (s.setX r v).cfg = s.cfg := rfl
@[simp] theorem State.setX_f (s : State) (r : Reg) (v : Word) : (s.setX r v).f = s.f := rfl
@[simp] theorem State.setX_pc (s : State) (r : Reg) (v : Word) : (s.setX r v).pc = s.pc := rfl
@[simp] theorem State.setX_npc (s : State) (r : Reg) (v : Word) : (s.setX r v).npc = s.npc := rfl
@[simp] theorem State.setX_psr (s : State) (r : Reg) (v : Word) : (s.setX r v).psr = s.psr := rfl
@[simp] theorem State.setX_fsr (s : State) (r : Reg) (v : Word) : (s.setX r v).fsr = s.fsr := rfl
@[simp] theorem State.setX_tbr (s : State) (r : Reg) (v : Word) : (s.setX r v).tbr = s.tbr := rfl
@[simp] theorem State.setX_wim (s : State) (r : Reg) (v : Word) : (s.setX r v).wim = s.wim := rfl
@[simp] theorem State.setX_y (s : State) (r : Reg) (v : Word) : (s.setX r v).y = s.y := rfl
@[simp] theorem State.setX_errorMode (s : State) (r : Reg) (v : Word) : (s.setX r v).errorMode = s.errorMode := rfl
@[simp] theorem State.setX_viewOverride (s : State) (r : Reg) (v : Word) :
    (s.setX r v).viewOverride = s.viewOverride := rfl
@[simp] theorem State.setX_last (s : State) (r : Reg) (v : Word) : (s.setX r v).last = s.last := rfl
@[simp] theorem State.setX_mem (s : State) (r : Reg) (v : Word) : (s.setX r v).mem = s.mem := rfl
@[simp] theorem State.setX_bps (s : State) (r : Reg) (v : Word) : (s.setX r v).bps = s.bps := rfl
@[simp] theorem State.setX_report (s : State) (r : Reg) (v : Word) : (s.setX r v).report = s.report := rfl
@[simp] theorem State.setX_writes (s : State) (r : Reg) (v : Word) : (s.setX r v).writes = s.writes := rfl

/-! ### setIcc -/

@[simp] theorem State.setIcc_cfg (s : State) (i : Icc) : (s.setIcc i).cfg = s.cfg := rfl
@[simp] theorem State.setIcc_g (s : State) (i : Icc) : (s.setIcc i).g = s.g := rfl
@[simp] theorem State.setIcc_w (s : State) (i : Icc) : (s.setIcc i).w = s.w := rfl
@[simp] theorem State.setIcc_f (s : State) (i : Icc) : (s.setIcc i).f = s.f := rfl
@[simp] theorem State.setIcc_pc (s : State) (i : Icc) : (s.setIcc i).pc = s.pc := rfl
@[simp] theorem State.setIcc_npc (s : State) (i : Icc) : (s.setIcc i).npc = s.npc := rfl
@[simp] theorem State.setIcc_psr (s : State) (i : Icc) : (s.setIcc i).psr = Psr.setIcc s.psr i := rfl
@[simp] theorem State.setIcc_fsr (s : State) (i : Icc) : (s.setIcc i).fsr = s.fsr := rfl
@[simp] theorem State.setIcc_tbr (s : State) (i : Icc) : (s.setIcc i).tbr = s.tbr := rfl
@[simp] theorem State.setIcc_wim (s : State) (i : Icc) : (s.setIcc i).wim = s.wim := rfl
@[simp] theorem State.setIcc_y (s : State) (i : Icc) : (s.setIcc i).y = s.y := rfl
@[simp] theorem State.setIcc_errorMode (s : State) (i : Icc) : (s.setIcc i).errorMode = s.errorMode := rfl
@[simp] theorem State.setIcc_viewOverride (s : State) (i : Icc) : (s.setIcc i).viewOverride = s.viewOverride := rfl
@[simp] theorem State.setIcc_last (s : State) (i : Icc) : (s.setIcc i).last = s.last := rfl
@[simp] theorem State.setIcc_mem (s : State) (i : Icc) : (s.setIcc i).mem = s.mem := rfl
@[simp] theorem State.setIcc_bps (s : State) (i : Icc) : (s.setIcc i).bps = s.bps := rfl
@[simp] theorem State.setIcc_report (s : State) (i : Icc) : (s.setIcc i).report = s.report := rfl
@[simp] theorem State.setIcc_writes (s : State) (i : Icc) : (s.setIcc i).writes = s.writes := rfl

/-! ### setCwp -/

@[simp] theorem State.setCwp_cfg (s : State) (c : BitVec 5) : (s.setCwp c).cfg = s.cfg := rfl
@[simp] theorem State.setCwp_g (s : State) (c : BitVec 5) : (s.setCwp c).g = s.g := rfl
@[simp] theorem State.setCwp_w (s : State) (c : BitVec 5) : (s.setCwp c).w = s.w := rfl
@[simp] theorem State.setCwp_f (s : State) (c : BitVec 5) : (s.setCwp c).f = s.f := rfl
@[simp] theorem State.setCwp_pc (s : State) (c : BitVec 5) : (s.setCwp c).pc = s.pc := rfl
@[simp] theorem State.setCwp_npc (s : State) (c : BitVec 5) : (s.setCwp c).npc = s.npc := rfl
@[simp] theorem State.setCwp_psr (s : State) (c : BitVec 5) : (s.setCwp c).psr = Psr.setCwp s.psr c := rfl
@[simp] theorem State.setCwp_fsr (s : State) (c : BitVec 5) : (s.setCwp c).fsr = s.fsr := rfl
@[simp] theorem State.setCwp_tbr (s : State) (c : BitVec 5) : (s.setCwp c).tbr = s.tbr := rfl
@[simp] theorem State.setCwp_wim (s : State) (c : BitVec 5) : (s.setCwp c).wim = s.wim := rfl
@[simp] theorem State.setCwp_y (s : State) (c : BitVec 5) : (s.setCwp c).y = s.y := rfl
@[simp] theorem State.setCwp_errorMode (s : State) (c : BitVec 5) : (s.setCwp c).errorMode = s.errorMode := rfl
@[simp] theorem State.setCwp_viewOverride (s : State) (c : BitVec 5) :
    (s.setCwp c).viewOverride = s.viewOverride := rfl
@[simp] theorem State.setCwp_last (s : State) (c : BitVec 5) : (s.setCwp c).last = s.last := rfl
@[simp] theorem State.setCwp_mem (s : State) (c : BitVec 5) : (s.setCwp c).mem = s.mem := rfl
@[simp] theorem State.setCwp_bps (s : State) (c : BitVec 5) : (s.setCwp c).bps = s.bps := rfl
@[simp] theorem State.setCwp_report (s : State) (c : BitVec 5) : (s.setCwp c).report = s.report := rfl
@[simp] theorem State.setCwp_writes (s : State) (c : BitVec 5) : (s.setCwp c).writes = s.writes := rfl

/-! ### setY -/

@[simp] theorem State.setY_cfg (s : State) (v : Word) : (s.setY v).cfg = s.cfg := rfl
@[simp] theorem State.setY_g (s : State) (v : Word) : (s.setY v).g = s.g := rfl
@[simp] theorem State.setY_w (s : State) (v : Word) : (s.setY v).w = s.w := rfl
@[simp] theorem State.setY_f (s : State) (v : Word) : (s.setY v).f = s.f := rfl
@[simp] theorem State.setY_pc (s : State) (v : Word) : (s.setY v).pc = s.pc := rfl
@[simp] theorem State.setY_npc (s : State) (v : Word) : (s.setY v).npc = s.npc := rfl
@[simp] theorem State.setY_psr (s : State) (v : Word) : (s.setY v).psr = s.psr := rfl
@[simp] theorem State.setY_fsr (s : State) (v : Word) : (s.setY v).fsr = s.fsr := rfl
@[simp] theorem State.setY_tbr (s : State) (v : Word) : (s.setY v).tbr = s.tbr := rfl
@[simp] theorem State.setY_wim (s : State) (v : Word) : (s.setY v).wim = s.wim := rfl
@[simp] theorem State.setY_y (s : State) (v : Word) : (s.setY v).y = v := rfl
@[simp] theorem State.setY_errorMode (s : State) (v : Word) : (s.setY v).errorMode = s.errorMode := rfl
@[simp] theorem State.setY_viewOverride (s : State) (v : Word) : (s.setY v).viewOverride = s.viewOverride := rfl
@[simp] theorem State.setY_last (s : State) (v : Word) : (s.setY v).last = s.last := rfl
@[simp] theorem State.setY_mem (s : State) (v : Word) : (s.setY v).mem = s.mem := rfl
@[simp] theorem State.setY_bps (s : State) (v : Word) : (s.setY v).bps = s.bps := rfl
@[simp] theorem State.setY_report (s : State) (v : Word) : (s.setY v).report = s.report := rfl
@[simp] theorem State.setY_writes (s : State) (v : Word) : (s.setY v).writes = s.writes := rfl

/-! ### setFsr -/

@[simp] theorem State.setFsr_cfg (s : State) (v : Word) : (s.setFsr v).cfg = s.cfg := rfl
@[simp] theorem State.setFsr_g (s : State) (v : Word) : (s.setFsr v).g = s.g := rfl
@[simp] theorem State.setFsr_w (s : State) (v : Word) : (s.setFsr v).w = s.w := rfl
@[simp] theorem State.setFsr_f (s : State) (v : Word) : (s.setFsr v).f = s.f := rfl
@[simp] theorem State.setFsr_pc (s : State) (v : Word) : (s.setFsr v).pc = s.pc := rfl
@[simp] theorem State.setFsr_npc (s : State) (v : Word) : (s.setFsr v).npc = s.npc := rfl
@[simp] theorem State.setFsr_psr (s : State) (v : Word) : (s.setFsr v).psr = s.psr := rfl
@[simp] theorem State.setFsr_fsr (s : State) (v : Word) : (s.setFsr v).fsr = v := rfl
@[simp] theorem State.setFsr_tbr (s : State) (v : Word) : (s.setFsr v).tbr = s.tbr := rfl
@[simp] theorem State.setFsr_wim (s : State) (v : Word) : (s.setFsr v).wim = s.wim := rfl
@[simp] theorem State.setFsr_y (s : State) (v : Word) : (s.setFsr v).y = s.y := rfl
@[simp] theorem State.setFsr_errorMode (s : State) (v : Word) : (s.setFsr v).errorMode = s.errorMode := rfl
@[simp] theorem State.setFsr_viewOverride (s : State) (v : Word) : (s.setFsr v).viewOverride = s.viewOverride := rfl
@[simp] theorem State.setFsr_last (s : State) (v : Word) : (s.setFsr v).last = s.last := rfl
@[simp] theorem State.setFsr_mem (s : State) (v : Word) : (s.setFsr v).mem = s.mem := rfl
@[simp] theorem State.setFsr_bps (s : State) (v : Word) : (s.setFsr v).bps = s.bps := rfl
@[simp] theorem State.setFsr_report (s : State) (v : Word) : (s.setFsr v).report = s.report := rfl
@[simp] theorem State.setFsr_writes (s : State) (v : Word) : (s.setFsr v).writes = s.writes := rfl

/-! ### setF -/

@[simp] theorem State.setF_cfg (s : State) (r : Reg) (v : Word) : (s.setF r v).cfg = s.cfg := rfl
@[simp] theorem State.setF_g (s : State) (r : Reg) (v : Word) : (s.setF r v).g = s.g := rfl
@[simp] theorem State.setF_w (s : State) (r : Reg) (v : Word) : (s.setF r v).w = s.w := rfl
@[simp] theorem State.setF_f (s : State) (r : Reg) (v : Word) : (s.setF r v).f = s.f.set r.toFin v := rfl
@[simp] theorem State.setF_pc (s : State) (r : Reg) (v : Word) : (s.setF r v).pc = s.pc := rfl
@[simp] theorem State.setF_npc (s : State) (r : Reg) (v : Word) : (s.setF r v).npc = s.npc := rfl
@[simp] theorem State.setF_psr (s : State) (r : Reg) (v : Word) : (s.setF r v).psr = s.psr := rfl
@[simp] theorem State.setF_fsr (s : State) (r : Reg) (v : Word) : (s.setF r v).fsr = s.fsr := rfl
@[simp] theorem State.setF_tbr (s : State) (r : Reg) (v : Word) : (s.setF r v).tbr = s.tbr := rfl
@[simp] theorem State.setF_wim (s : State) (r : Reg) (v : Word) : (s.setF r v).wim = s.wim := rfl
@[simp] theorem State.setF_y (s : State) (r : Reg) (v : Word) : (s.setF r v).y = s.y := rfl
@[simp] theorem State.setF_errorMode (s : State) (r : Reg) (v : Word) : (s.setF r v).errorMode = s.errorMode := rfl
@[simp] theorem State.setF_viewOverride (s : State) (r : Reg) (v : Word) :
    (s.setF r v).viewOverride = s.viewOverride := rfl
@[simp] theorem State.setF_last (s : State) (r : Reg) (v : Word) : (s.setF r v).last = s.last := rfl
@[simp] theorem State.setF_mem (s : State) (r : Reg) (v : Word) : (s.setF r v).mem = s.mem := rfl
@[simp] theorem State.setF_bps (s : State) (r : Reg) (v : Word) : (s.setF r v).bps = s.bps := rfl
@[simp] theorem State.setF_report (s : State) (r : Reg) (v : Word) : (s.setF r v).report = s.report := rfl
@[simp] theorem State.setF_writes (s : State) (r : Reg) (v : Word) : (s.setF r v).writes = s.writes := rfl

/-! ### setFd -/

@[simp] theorem State.setFd_cfg (s : State) (r : Reg) (v : BitVec 64) : (s.setFd r v).cfg = s.cfg := rfl
@[simp] theorem State.setFd_g (s : State) (r : Reg) (v : BitVec 64) : (s.setFd r v).g = s.g := rfl
@[simp] theorem State.setFd_w (s : State) (r : Reg) (v : BitVec 64) : (s.setFd r v).w = s.w := rfl
@[simp] theorem State.setFd_pc (s : State) (r : Reg) (v : BitVec 64) : (s.setFd r v).pc = s.pc := rfl
@[simp] theorem State.setFd_npc (s : State) (r : Reg) (v : BitVec 64) : (s.setFd r v).npc = s.npc := rfl
@[simp] theorem State.setFd_psr (s : State) (r : Reg) (v : BitVec 64) : (s.setFd r v).psr = s.psr := rfl
@[simp] theorem State.setFd_fsr (s : State) (r : Reg) (v : BitVec 64) : (s.setFd r v).fsr = s.fsr := rfl
@[simp] theorem State.setFd_tbr (s : State) (r : Reg) (v : BitVec 64) : (s.setFd r v).tbr = s.tbr := rfl
@[simp] theorem State.setFd_wim (s : State) (r : Reg) (v : BitVec 64) : (s.setFd r v).wim = s.wim := rfl
@[simp] theorem State.setFd_y (s : State) (r : Reg) (v : BitVec 64) : (s.setFd r v).y = s.y := rfl
@[simp] theorem State.setFd_errorMode (s : State) (r : Reg) (v : BitVec 64) :
    (s.setFd r v).errorMode = s.errorMode := rfl
@[simp] theorem State.setFd_viewOverride (s : State) (r : Reg) (v : BitVec 64) :
    (s.setFd r v).viewOverride = s.viewOverride := rfl
@[simp] theorem State.setFd_last (s : State) (r : Reg) (v : BitVec 64) : (s.setFd r v).last = s.last := rfl
@[simp] theorem State.setFd_mem (s : State) (r : Reg) (v : BitVec 64) : (s.setFd r v).mem = s.mem := rfl
@[simp] theorem State.setFd_bps (s : State) (r : Reg) (v : BitVec 64) : (s.setFd r v).bps = s.bps := rfl
@[simp] theorem State.setFd_report (s : State) (r : Reg) (v : BitVec 64) : (s.setFd r v).report = s.report := rfl
@[simp] theorem State.setFd_writes (s : State) (r : Reg) (v : BitVec 64) : (s.setFd r v).writes = s.writes := rfl

/-! ### goTo -/

@[simp] theorem State.goTo_cfg (s : State) (p n : Word) : (s.goTo p n).cfg = s.cfg := rfl
@[simp] theorem State.goTo_g (s : State) (p n : Word) : (s.goTo p n).g = s.g := rfl
@[simp] theorem State.goTo_w (s : State) (p n : Word) : (s.goTo p n).w = s.w := rfl
@[simp] theorem State.goTo_f (s : State) (p n : Word) : (s.goTo p n).f = s.f := rfl
@[simp] theorem State.goTo_pc (s : State) (p n : Word) : (s.goTo p n).pc = p := rfl
@[simp] theorem State.goTo_npc (s : State) (p n : Word) : (s.goTo p n).npc = n := rfl
@[simp] theorem State.goTo_psr (s : State) (p n : Word) : (s.goTo p n).psr = s.psr := rfl
@[simp] theorem State.goTo_fsr (s : State) (p n : Word) : (s.goTo p n).fsr = s.fsr := rfl
@[simp] theorem State.goTo_tbr (s : State) (p n : Word) : (s.goTo p n).tbr = s.tbr := rfl
@[simp] theorem State.goTo_wim (s : State) (p n : Word) : (s.goTo p n).wim = s.wim := rfl
@[simp] theorem State.goTo_y (s : State) (p n : Word) : (s.goTo p n).y = s.y := rfl
@[simp] theorem State.goTo_errorMode (s : State) (p n : Word) : (s.goTo p n).errorMode = s.errorMode := rfl
@[simp] theorem State.goTo_viewOverride (s : State) (p n : Word) : (s.goTo p n).viewOverride = s.viewOverride := rfl
@[simp] theorem State.goTo_last (s : State) (p n : Word) : (s.goTo p n).last = s.last := rfl
@[simp] theorem State.goTo_mem (s : State) (p n : Word) : (s.goTo p n).mem = s.mem := rfl
@[simp] theorem State.goTo_bps (s : State) (p n : Word) : (s.goTo p n).bps = s.bps := rfl
@[simp] theorem State.goTo_report (s : State) (p n : Word) : (s.goTo p n).report = .continued none := rfl
@[simp] theorem State.goTo_writes (s : State) (p n : Word) : (s.goTo p n).writes = [] := rfl

/-! ### advance -/

@[simp] theorem State.advance_cfg (s : State) : s.advance.cfg = s.cfg := rfl
@[simp] theorem State.advance_g (s : State) : s.advance.g = s.g := rfl
@[simp] theorem State.advance_w (s : State) : s.advance.w = s.w := rfl
@[simp] theorem State.advance_f (s : State) : s.advance.f = s.f := rfl
@[simp] theorem State.advance_pc (s : State) : s.advance.pc = s.npc := rfl
@[simp] theorem State.advance_npc (s : State) : s.advance.npc = s.npc + 4 := rfl
@[simp] theorem State.advance_psr (s : State) : s.advance.psr = s.psr := rfl
@[simp] theorem State.advance_fsr (s : State) : s.advance.fsr = s.fsr := rfl
@[simp] theorem State.advance_tbr (s : State) : s.advance.tbr = s.tbr := rfl
@[simp] theorem State.advance_wim (s : State) : s.advance.wim = s.wim := rfl
@[simp] theorem State.advance_y (s : State) : s.advance.y = s.y := rfl
@[simp] theorem State.advance_errorMode (s : State) : s.advance.errorMode = s.errorMode := rfl
@[simp] theorem State.advance_viewOverride (s : State) : s.advance.viewOverride = s.viewOverride := rfl
@[simp] theorem State.advance_last (s : State) : s.advance.last = s.last := rfl
@[simp] theorem State.advance_mem (s : State) : s.advance.mem = s.mem := rfl
@[simp] theorem State.advance_bps (s : State) : s.advance.bps = s.bps := rfl
@[simp] theorem State.advance_report (s : State) : s.advance.report = .continued none := rfl
@[simp] theorem State.advance_writes (s : State) : s.advance.writes = [] := rfl

/-! ### jumpTo -/

@[simp] theorem State.jumpTo_cfg (s : State) (n : Word) : (s.jumpTo n).cfg = s.cfg := rfl
@[simp] theorem State.jumpTo_g (s : State) (n : Word) : (s.jumpTo n).g = s.g := rfl
@[simp] theorem State.jumpTo_w (s : State) (n : Word) : (s.jumpTo n).w = s.w := rfl
@[simp] theorem State.jumpTo_f (s : State) (n : Word) : (s.jumpTo n).f = s.f := rfl
@[simp] theorem State.jumpTo_pc (s : State) (n : Word) : (s.jumpTo n).pc = s.npc := rfl
@[simp] theorem State.jumpTo_npc (s : State) (n : Word) : (s.jumpTo n).npc = n := rfl
@[simp] theorem State.jumpTo_psr (s : State) (n : Word) : (s.jumpTo n).psr = s.psr := rfl
@[simp] theorem State.jumpTo_fsr (s : State) (n : Word) : (s.jumpTo n).fsr = s.fsr := rfl
@[simp] theorem State.jumpTo_tbr (s : State) (n : Word) : (s.jumpTo n).tbr = s.tbr := rfl
@[simp] theorem State.jumpTo_wim (s : State) (n : Word) : (s.jumpTo n).wim = s.wim := rfl
@[simp] theorem State.jumpTo_y (s : State) (n : Word) : (s.jumpTo n).y = s.y := rfl
@[simp] theorem State.jumpTo_errorMode (s : State) (n : Word) : (s.jumpTo n).errorMode = s.errorMode := rfl
@[simp] theorem State.jumpTo_viewOverride (s : State) (n : Word) : (s.jumpTo n).viewOverride = s.viewOverride := rfl
@[simp] theorem State.jumpTo_last (s : State) (n : Word) : (s.jumpTo n).last = s.last := rfl
@[simp] theorem State.jumpTo_mem (s : State) (n : Word) : (s.jumpTo n).mem = s.mem := rfl
@[simp] theorem State.jumpTo_bps (s : State) (n : Word) : (s.jumpTo n).bps = s.bps := rfl
@[simp] theorem State.jumpTo_report (s : State) (n : Word) : (s.jumpTo n).report = .continued none := rfl
@[simp] theorem State.jumpTo_writes (s : State) (n : Word) : (s.jumpTo n).writes = [] := rfl

/-! ### takeTrap -/

@[simp] theorem takeTrap_cfg (s : State) (t : BitVec 8) : (takeTrap t s).cfg = s.cfg := rfl
@[simp] theorem takeTrap_f (s : State) (t : BitVec 8) : (takeTrap t s).f = s.f := rfl
@[simp] theorem takeTrap_pc (s : State) (t : BitVec 8) : (takeTrap t s).pc = Tbr.entry s.tbr t := rfl
@[simp] theorem takeTrap_npc (s : State) (t : BitVec 8) : (takeTrap t s).npc = Tbr.entry s.tbr t + 4 := rfl
@[simp] theorem takeTrap_psr (s : State) (t : BitVec 8) :
    (takeTrap t s).psr = Psr.enterTrap s.psr s.previousWindow := rfl
@[simp] theorem takeTrap_fsr (s : State) (t : BitVec 8) : (takeTrap t s).fsr = s.fsr := rfl
@[simp] theorem takeTrap_tbr (s : State) (t : BitVec 8) : (takeTrap t s).tbr = Tbr.setTt s.tbr t := rfl
@[simp] theorem takeTrap_wim (s : State) (t : BitVec 8) : (takeTrap t s).wim = s.wim := rfl
@[simp] theorem takeTrap_y (s : State) (t : BitVec 8) : (takeTrap t s).y = s.y := rfl
@[simp] theorem takeTrap_errorMode (s : State) (t : BitVec 8) : (takeTrap t s).errorMode = s.errorMode := rfl
@[simp] theorem takeTrap_viewOverride (s : State) (t : BitVec 8) : (takeTrap t s).viewOverride = s.viewOverride := rfl
@[simp] theorem takeTrap_last (s : State) (t : BitVec 8) : (takeTrap t s).last = s.last := rfl
@[simp] theorem takeTrap_mem (s : State) (t : BitVec 8) : (takeTrap t s).mem = s.mem := rfl
@[simp] theorem takeTrap_bps (s : State) (t : BitVec 8) : (takeTrap t s).bps = s.bps := rfl
@[simp] theorem takeTrap_report (s : State) (t : BitVec 8) : (takeTrap t s).report = .continued (some t) := rfl
@[simp] theorem takeTrap_writes (s : State) (t : BitVec 8) : (takeTrap t s).writes = [] := rfl

/-! ### enterErrorMode -/

@[simp] theorem enterErrorMode_cfg (s : State) (t : BitVec 8) : (enterErrorMode t s).cfg = s.cfg := rfl
@[simp] theorem enterErrorMode_g (s : State) (t : BitVec 8) : (enterErrorMode t s).g = s.g := rfl
@[simp] theorem enterErrorMode_w (s : State) (t : BitVec 8) : (enterErrorMode t s).w = s.w := rfl
@[simp] theorem enterErrorMode_f (s : State) (t : BitVec 8) : (enterErrorMode t s).f = s.f := rfl
@[simp] theorem enterErrorMode_pc (s : State) (t : BitVec 8) : (enterErrorMode t s).pc = s.pc := rfl
@[simp] theorem enterErrorMode_npc (s : State) (t : BitVec 8) : (enterErrorMode t s).npc = s.npc := rfl
@[simp] theorem enterErrorMode_psr (s : State) (t : BitVec 8) : (enterErrorMode t s).psr = s.psr := rfl
@[simp] theorem enterErrorMode_fsr (s : State) (t : BitVec 8) : (enterErrorMode t s).fsr = s.fsr := rfl
@[simp] theorem enterErrorMode_tbr (s : State) (t : BitVec 8) : (enterErrorMode t s).tbr = Tbr.setTt s.tbr t := rfl
@[simp] theorem enterErrorMode_wim (s : State) (t : BitVec 8) : (enterErrorMode t s).wim = s.wim := rfl
@[simp] theorem enterErrorMode_y (s : State) (t : BitVec 8) : (enterErrorMode t s).y = s.y := rfl
@[simp] theorem enterErrorMode_errorMode (s : State) (t : BitVec 8) : (enterErrorMode t s).errorMode = true := rfl
@[simp] theorem enterErrorMode_viewOverride (s : State) (t : BitVec 8) :
    (enterErrorMode t s).viewOverride = s.viewOverride := rfl
@[simp] theorem enterErrorMode_last (s : State) (t : BitVec 8) : (enterErrorMode t s).last = s.last := rfl
@[simp] theorem enterErrorMode_mem (s : State) (t : BitVec 8) : (enterErrorMode t s).mem = s.mem := rfl
@[simp] theorem enterErrorMode_bps (s : State) (t : BitVec 8) : (enterErrorMode t s).bps = s.bps := rfl
@[simp] theorem enterErrorMode_report (s : State) (t : BitVec 8) : (enterErrorMode t s).report = .errorMode t := rfl
@[simp] theorem enterErrorMode_writes (s : State) (t : BitVec 8) : (enterErrorMode t s).writes = [] := rfl

/-! ### returnFromTrap -/

@[simp] theorem returnFromTrap_cfg (s : State) (a : Word) : (returnFromTrap a s).cfg = s.cfg := rfl
@[simp] theorem returnFromTrap_g (s : State) (a : Word) : (returnFromTrap a s).g = s.g := rfl
@[simp] theorem returnFromTrap_w (s : State) (a : Word) : (returnFromTrap a s).w = s.w := rfl
@[simp] theorem returnFromTrap_f (s : State) (a : Word) : (returnFromTrap a s).f = s.f := rfl
@[simp] theorem returnFromTrap_pc (s : State) (a : Word) : (returnFromTrap a s).pc = s.npc := rfl
@[simp] theorem returnFromTrap_npc (s : State) (a : Word) : (returnFromTrap a s).npc = a := rfl
@[simp] theorem returnFromTrap_psr (s : State) (a : Word) :
    (returnFromTrap a s).psr = Psr.returnFromTrap s.psr s.followingWindow := rfl
@[simp] theorem returnFromTrap_fsr (s : State) (a : Word) : (returnFromTrap a s).fsr = s.fsr := rfl
@[simp] theorem returnFromTrap_tbr (s : State) (a : Word) : (returnFromTrap a s).tbr = s.tbr := rfl
@[simp] theorem returnFromTrap_wim (s : State) (a : Word) : (returnFromTrap a s).wim = s.wim := rfl
@[simp] theorem returnFromTrap_y (s : State) (a : Word) : (returnFromTrap a s).y = s.y := rfl
@[simp] theorem returnFromTrap_errorMode (s : State) (a : Word) : (returnFromTrap a s).errorMode = s.errorMode := rfl
@[simp] theorem returnFromTrap_viewOverride (s : State) (a : Word) :
    (returnFromTrap a s).viewOverride = s.viewOverride := rfl
@[simp] theorem returnFromTrap_last (s : State) (a : Word) : (returnFromTrap a s).last = s.last := rfl
@[simp] theorem returnFromTrap_mem (s : State) (a : Word) : (returnFromTrap a s).mem = s.mem := rfl
@[simp] theorem returnFromTrap_bps (s : State) (a : Word) : (returnFromTrap a s).bps = s.bps := rfl
@[simp] theorem returnFromTrap_report (s : State) (a : Word) : (returnFromTrap a s).report = .continued none := rfl
@[simp] theorem returnFromTrap_writes (s : State) (a : Word) : (returnFromTrap a s).writes = [] := rfl

/-! ### hostReset -/

@[simp] theorem hostReset_cfg (s : State) : (s.hostReset).cfg = s.cfg := rfl
@[simp] theorem hostReset_g (s : State) : (s.hostReset).g = Vector.replicate 7 0 := rfl
@[simp] theorem hostReset_w (s : State) : (s.hostReset).w = List.replicate (16 * s.cfg.nwindows) 0 := rfl
@[simp] theorem hostReset_f (s : State) : (s.hostReset).f = Vector.replicate 32 0 := rfl
@[simp] theorem hostReset_pc (s : State) : (s.hostReset).pc = 0 := rfl
@[simp] theorem hostReset_npc (s : State) : (s.hostReset).npc = 4 := rfl
@[simp] theorem hostReset_psr (s : State) : (s.hostReset).psr = 0 := rfl
@[simp] theorem hostReset_fsr (s : State) : (s.hostReset).fsr = 0 := rfl
@[simp] theorem hostReset_tbr (s : State) : (s.hostReset).tbr = 0 := rfl
@[simp] theorem hostReset_wim (s : State) : (s.hostReset).wim = 0 := rfl
@[simp] theorem hostReset_y (s : State) : (s.hostReset).y = 0 := rfl
@[simp] theorem hostReset_errorMode (s : State) : (s.hostReset).errorMode = false := rfl
@[simp] theorem hostReset_viewOverride (s : State) : (s.hostReset).viewOverride = none := rfl
@[simp] theorem hostReset_last (s : State) : (s.hostReset).last = ⟨false, 0, 0⟩ := rfl
@[simp] theorem hostReset_mem (s : State) : (s.hostReset).mem = s.mem := rfl
@[simp] theorem hostReset_bps (s : State) : (s.hostReset).bps = ⟨[], 1⟩ := rfl
@[simp] theorem hostReset_report (s : State) : (s.hostReset).report = .continued none := rfl
@[simp] theorem hostReset_writes (s : State) : (s.hostReset).writes = [] := rfl

end Sys2Proof.Machine
end

