-- ==== Sys2Proof/Laws/Registers.lean ====
section
/-! SUPPORT. Register reads after register writes (10_state R102 to R105, R140), and the windows the window moves reach. -/

namespace Sys2Proof.Machine

/-! ### Slots -/

/-- The slot exists in a register file of nw windows. -/
def Slot.InFile (nw : Nat) : Slot → Prop
  | .windowed i => i < 16 * nw
  | .zero => True
  | .global _ => True

@[simp] theorem resolve_g0 (nw win : Nat) : resolve nw win 0 = .zero := rfl

theorem resolve_inFile {nw win : Nat} (h : win < nw) (r : Reg) : (resolve nw win r).InFile nw := by
  have hm : (win + nw - 1) % nw < nw := Nat.mod_lt _ (by omega)
  have hr := r.isLt
  unfold resolve
  split_ifs <;> simp only [Slot.InFile] <;> omega

/-- A global needs no window (10_state R104). -/
theorem resolve_global (nw win win' : Nat) (r : Reg) (h : r.toNat < 8) : resolve nw win r = resolve nw win' r := by
  simp [resolve, h]

/-- Within one window, two register numbers never share a slot (10_state R104). -/
theorem resolve_injective {nw win : Nat} (h2 : 2 ≤ nw) (h : win < nw) {r r' : Reg}
    (e : resolve nw win r = resolve nw win r') : r = r' := by
  have hne : (win + nw - 1) % nw ≠ win := by
    rcases Nat.eq_zero_or_pos win with h0 | h0
    · subst h0; rw [Nat.mod_eq_of_lt (by omega)]; omega
    · rw [show win + nw - 1 = (win - 1) + nw by omega, Nat.add_mod_right, Nat.mod_eq_of_lt (by omega)]; omega
  apply BitVec.eq_of_toNat_eq
  have hr := r.isLt; have hr' := r'.isLt
  unfold resolve at e
  split_ifs at e <;> simp only [Slot.global.injEq, Slot.windowed.injEq, Fin.mk.injEq] at e <;> omega

/-- The outs of a window are the ins of the window before it (10_state R105). -/
theorem resolve_outs_are_ins {nw win : Nat} (k : Fin 8) :
    resolve nw win (BitVec.ofNat 5 (8 + k)) =
      resolve nw ((win + nw - 1) % nw) (BitVec.ofNat 5 (24 + k)) := by
  fin_cases k <;> simp [resolve]

theorem readSlot_writeSlot_same {s : State} {nw : Nat} (hw : s.w.length = 16 * nw) {sl : Slot} (h : sl.InFile nw)
    (v : Word) : (s.writeSlot sl v).readSlot sl = if sl = .zero then 0 else v := by
  cases sl with
  | zero => rfl
  | global k => simp [State.readSlot, Slot.writeGlobals]
  | windowed i =>
    simp only [Slot.InFile] at h
    simp [State.readSlot, Slot.writeWindowed, List.getD_eq_getElem?_getD, hw, h]

theorem readSlot_writeSlot_ne (s : State) {sl sl' : Slot} (h : sl' ≠ sl) (v : Word) :
    (s.writeSlot sl v).readSlot sl' = s.readSlot sl' := by
  cases sl with
  | zero => rfl
  | global k =>
    cases sl' with
    | zero => rfl
    | windowed _ => rfl
    | global k' =>
      have hk : (k : Nat) ≠ k' := fun e => h (by rw [Fin.ext e])
      simp [State.readSlot, Slot.writeGlobals, hk]
  | windowed i =>
    cases sl' with
    | zero => rfl
    | global _ => rfl
    | windowed i' =>
      have hi : i ≠ i' := fun e => h (by rw [e])
      simp [State.readSlot, Slot.writeWindowed, List.getD_eq_getElem?_getD, hi]

@[simp] theorem Slot.length_writeWindowed (sl : Slot) (v : Word) (w : List Word) :
    (sl.writeWindowed v w).length = w.length := by
  cases sl <;> simp [Slot.writeWindowed]

@[simp] theorem State.setXIn_w_length (s : State) (n : Nat) (r : Reg) (v : Word) :
    (s.setXIn n r v).w.length = s.w.length := Slot.length_writeWindowed ..

@[simp] theorem State.setX_w_length (s : State) (r : Reg) (v : Word) : (s.setX r v).w.length = s.w.length :=
  Slot.length_writeWindowed ..

/-! ### Integer registers -/

theorem xIn_setXIn_same {s : State} (hw : s.w.length = 16 * s.cfg.nwindows) {n : Nat} (hn : n < s.cfg.nwindows)
    (r : Reg) (v : Word) : (s.setXIn n r v).xIn n r = if r = 0 then 0 else v := by
  have hin := resolve_inFile hn r
  have hz : resolve s.cfg.nwindows n r = .zero ↔ r = 0 := by
    constructor
    · intro e
      apply BitVec.eq_of_toNat_eq
      unfold resolve at e
      split_ifs at e with h0
      exact h0
    · rintro rfl; rfl
  simp only [State.setXIn, State.xIn, State.writeSlot_cfg, readSlot_writeSlot_same hw hin, hz]

/-- A write changes no register that resolves to another slot, whatever window it is named through. -/
theorem xIn_setXIn_ne (s : State) {n n' : Nat} {r r' : Reg} (v : Word)
    (h : resolve s.cfg.nwindows n' r' ≠ resolve s.cfg.nwindows n r) : (s.setXIn n r v).xIn n' r' = s.xIn n' r' :=
  readSlot_writeSlot_ne s h v

/-- x[r] after x[r] <- v: v, but 0 for g0 (10_state R102). -/
theorem x_setX_same {s : State} (h : s.Shaped) (r : Reg) (v : Word) : (s.setX r v).x r = if r = 0 then 0 else v :=
  xIn_setXIn_same h.2.1 h.2.2 r v

/-- Another register of the current window after x[r] <- v. -/
theorem x_setX_ne {s : State} (h : s.Shaped) {r r' : Reg} (hr : r' ≠ r) (v : Word) : (s.setX r v).x r' = s.x r' :=
  xIn_setXIn_ne s v fun e => hr (resolve_injective h.1.1 h.2.2 e)

@[simp] theorem State.x_g0 (s : State) : s.x 0 = 0 := rfl

@[simp] theorem State.setX_g0 (s : State) (v : Word) : s.setX 0 v = s := rfl

/-! ### The window and the registers after the other updates -/

@[simp] theorem State.window_setX (s : State) (r : Reg) (v : Word) : (s.setX r v).window = s.window := rfl
@[simp] theorem State.window_setXIn (s : State) (n : Nat) (r : Reg) (v : Word) : (s.setXIn n r v).window = s.window := rfl
@[simp] theorem State.window_setIcc (s : State) (i : Icc) : (s.setIcc i).window = s.window := by simp [State.window]
@[simp] theorem State.window_setCwp (s : State) (c : BitVec 5) : (s.setCwp c).window = c.toNat := by simp [State.window]
@[simp] theorem State.window_setY (s : State) (v : Word) : (s.setY v).window = s.window := rfl
@[simp] theorem State.window_setFsr (s : State) (v : Word) : (s.setFsr v).window = s.window := rfl
@[simp] theorem State.window_setF (s : State) (r : Reg) (v : Word) : (s.setF r v).window = s.window := rfl
@[simp] theorem State.window_setFd (s : State) (r : Reg) (v : BitVec 64) : (s.setFd r v).window = s.window := rfl
@[simp] theorem State.window_goTo (s : State) (p n : Word) : (s.goTo p n).window = s.window := rfl
@[simp] theorem State.window_advance (s : State) : s.advance.window = s.window := rfl
@[simp] theorem State.window_jumpTo (s : State) (n : Word) : (s.jumpTo n).window = s.window := rfl

@[simp] theorem State.x_setIcc (s : State) (i : Icc) (r : Reg) : (s.setIcc i).x r = s.x r := by
  simp only [State.x, State.window_setIcc]; rfl
@[simp] theorem State.x_setY (s : State) (v : Word) (r : Reg) : (s.setY v).x r = s.x r := rfl
@[simp] theorem State.x_setFsr (s : State) (v : Word) (r : Reg) : (s.setFsr v).x r = s.x r := rfl
@[simp] theorem State.x_setF (s : State) (q : Reg) (v : Word) (r : Reg) : (s.setF q v).x r = s.x r := rfl
@[simp] theorem State.x_goTo (s : State) (p n : Word) (r : Reg) : (s.goTo p n).x r = s.x r := rfl
@[simp] theorem State.x_advance (s : State) (r : Reg) : s.advance.x r = s.x r := rfl
@[simp] theorem State.x_jumpTo (s : State) (n : Word) (r : Reg) : (s.jumpTo n).x r = s.x r := rfl

/-- A write through the current window goes to the slot the register resolves to. -/
theorem readSlot_setX_ne (s : State) {sl : Slot} {r : Reg} (v : Word)
    (h : sl ≠ resolve s.cfg.nwindows s.window r) : (s.setX r v).readSlot sl = s.readSlot sl :=
  readSlot_writeSlot_ne s h v

/-! ### Window moves (43_window_and_state R700, R701) -/

theorem previousWindow_toNat {s : State} (h : s.cfg.Legal) :
    s.previousWindow.toNat = (s.window + s.cfg.nwindows - 1) % s.cfg.nwindows := by
  have hl : (s.window + s.cfg.nwindows - 1) % s.cfg.nwindows < s.cfg.nwindows := Nat.mod_lt _ (by have := h.1; omega)
  rw [State.previousWindow, BitVec.toNat_ofNat, Nat.mod_eq_of_lt (lt_of_lt_of_le hl (by have := h.2.1; omega))]

theorem followingWindow_toNat {s : State} (h : s.cfg.Legal) :
    s.followingWindow.toNat = (s.window + 1) % s.cfg.nwindows := by
  have hl : (s.window + 1) % s.cfg.nwindows < s.cfg.nwindows := Nat.mod_lt _ (by have := h.1; omega)
  rw [State.followingWindow, BitVec.toNat_ofNat, Nat.mod_eq_of_lt (lt_of_lt_of_le hl (by have := h.2.1; omega))]

theorem previousWindow_lt {s : State} (h : s.cfg.Legal) : s.previousWindow.toNat < s.cfg.nwindows := by
  rw [previousWindow_toNat h]; exact Nat.mod_lt _ (by have := h.1; omega)

theorem followingWindow_lt {s : State} (h : s.cfg.Legal) : s.followingWindow.toNat < s.cfg.nwindows := by
  rw [followingWindow_toNat h]; exact Nat.mod_lt _ (by have := h.1; omega)

/-! ### Floating-point registers (10_state R140) -/

@[simp] theorem fr_setF_same (s : State) (r : Reg) (v : Word) : (s.setF r v).fr r = v := by
  simp [State.fr]

theorem fr_setF_ne (s : State) {r r' : Reg} (h : r' ≠ r) (v : Word) : (s.setF r v).fr r' = s.fr r' := by
  have : r.toNat ≠ r'.toNat := fun e => h (BitVec.eq_of_toNat_eq e.symm)
  simp [State.fr, this]

theorem next_reg_ne (r : Reg) : r + 1 ≠ r := by
  intro h; have := congrArg BitVec.toNat h; have := r.isLt; rw [BitVec.toNat_add] at *; simp at *

theorem fr_setFd_high (s : State) (r : Reg) (v : BitVec 64) : (s.setFd r v).fr r = v.extractLsb' 32 32 := by
  rw [State.setFd, fr_setF_ne _ (next_reg_ne r).symm, fr_setF_same]

theorem fr_setFd_low (s : State) (r : Reg) (v : BitVec 64) : (s.setFd r v).fr (r + 1) = v.extractLsb' 0 32 := by
  rw [State.setFd, fr_setF_same]

theorem fr_setFd_ne (s : State) {r r' : Reg} (h : r' ≠ r) (h' : r' ≠ r + 1) (v : BitVec 64) :
    (s.setFd r v).fr r' = s.fr r' := by
  rw [State.setFd, fr_setF_ne _ h', fr_setF_ne _ h]

/-- fd[r] after fd[r] <- v. -/
theorem fd_setFd_same (s : State) (r : Reg) (v : BitVec 64) : (s.setFd r v).fd r = v := by
  rw [State.fd, fr_setFd_high, fr_setFd_low]
  apply BitVec.eq_of_getLsbD_eq
  intro j hj
  rw [BitVec.getLsbD_append, BitVec.getLsbD_extractLsb', BitVec.getLsbD_extractLsb']
  split
  · simp [*]
  · rw [show 32 + (j - 32) = j by omega]; simp; omega

end Sys2Proof.Machine
end

