-- ==== Sys2Proof/Laws/Ops.lean ====
section
/-! SUPPORT. What each shared operation can answer, said once; alignment and targets; what taking a trap leaves. -/

namespace Sys2Proof.Machine

/-! ### Alignment (20_memory R212, R213) -/

theorem aligned_iff (a : Word) (n : Nat) : aligned a n = true ↔ a.toNat % n = 0 := by simp [aligned]

theorem alignWord_eq_iff (a : Word) : alignWord a = a ↔ a.toNat % 4 = 0 := by
  have hmask : (0xFFFFFFFC : Word) = ~~~(3 : Word) := by decide
  have h3 : a.toNat % 4 = (a &&& 3).toNat := by
    rw [BitVec.toNat_and]; exact (Nat.and_two_pow_sub_one_eq_mod a.toNat 2).symm
  rw [h3, alignWord, hmask]
  constructor
  · intro h
    have h0 : a &&& 3 = 0 := by
      rw [← h, BitVec.and_assoc, show (~~~(3 : Word) &&& 3) = 0#32 by decide, BitVec.and_zero]; rfl
    rw [h0]; rfl
  · intro h
    have h0 : a &&& 3 = 0 := BitVec.eq_of_toNat_eq h
    ext j hj
    have := congrArg (fun x : Word => x[j]) h0
    simp only [BitVec.getElem_and] at this
    simp only [BitVec.getElem_and, BitVec.getElem_not]
    revert this
    cases a[j] <;> cases (3 : Word)[j] <;> simp

theorem alignWord_idem (a : Word) : alignWord (alignWord a) = alignWord a := by
  simp only [alignWord, BitVec.and_assoc, BitVec.and_self]

theorem alignWord_toNat_mod (a : Word) : (alignWord a).toNat % 4 = 0 := (alignWord_eq_iff _).1 (alignWord_idem a)

theorem add_mod_four {a b : Word} (ha : a.toNat % 4 = 0) (hb : b.toNat % 4 = 0) : (a + b).toNat % 4 = 0 := by
  rw [BitVec.toNat_add]; omega

/-- A value whose two low bits are zero is a multiple of 4. -/
theorem toNat_mod_four {a : Word} (h0 : a.getLsbD 0 = false) (h1 : a.getLsbD 1 = false) : a.toNat % 4 = 0 := by
  have e : a.toNat % 4 = (a.extractLsb' 0 2).toNat := by simp [BitVec.extractLsb'_toNat]
  have z : a.extractLsb' 0 2 = 0 := by
    ext j hj
    rw [BitVec.getElem_extractLsb']
    interval_cases j
    · simpa using h0
    · simpa using h1
  rw [e, z]; rfl

theorem branchTarget_mod_four {pc : Word} (h : pc.toNat % 4 = 0) (d : BitVec 22) : (branchTarget pc d).toNat % 4 = 0 := by
  have e (j : Nat) (hj : j < 2) : ((d ++ 0#2).signExtend 32).getLsbD j = false := by
    rw [BitVec.getLsbD_signExtend, BitVec.getLsbD_append, if_pos (by omega), if_pos hj]
    simp
  exact add_mod_four h (toNat_mod_four (e 0 (by omega)) (e 1 (by omega)))

theorem callTarget_mod_four {pc : Word} (h : pc.toNat % 4 = 0) (d : BitVec 30) : (callTarget pc d).toNat % 4 = 0 := by
  refine add_mod_four h (toNat_mod_four ?_ ?_) <;>
    (change @BitVec.getLsbD (30 + 2) (_ ++ _) _ = _; rw [BitVec.getLsbD_append]; rfl)

theorem entry_mod_four (t : Word) (tt : BitVec 8) : (Tbr.entry t tt).toNat % 4 = 0 := by
  refine toNat_mod_four ?_ ?_ <;> (rw [Tbr.getLsbD_entry _ _ _ (by omega)]; rfl)

/-! ### Inversion of the guards -/

theorem raise_next_iff (t : TrapType) (s u : State) :
    raise t s = .next u ↔
      Psr.et s.psr = true ∧ u = takeTrap t.tt s ∨ Psr.et s.psr = false ∧ u = enterErrorMode t.tt s := by
  unfold raise
  cases Psr.et s.psr <;> simp [eq_comm]

theorem privileged_next_iff (s u : State) (body : Result) :
    privileged s body = .next u ↔
      Psr.s s.psr = true ∧ body = .next u ∨ Psr.s s.psr = false ∧ raise .privilegedInstruction s = .next u := by
  unfold privileged
  cases Psr.s s.psr <;> simp

theorem fpEnabled_next_iff (s u : State) (body : Result) :
    fpEnabled s body = .next u ↔
      Psr.ef s.psr = true ∧ body = .next u ∨ Psr.ef s.psr = false ∧ raise .fpDisabled s = .next u := by
  unfold fpEnabled
  cases Psr.ef s.psr <;> simp

theorem whenAligned_next_iff (a : Word) (n : Nat) (s u : State) (body : Result) :
    whenAligned a n s body = .next u ↔
      aligned a n = true ∧ body = .next u ∨ aligned a n = false ∧ raise .memAddressNotAligned s = .next u := by
  unfold whenAligned
  cases aligned a n <;> simp

theorem evenPair_next_iff (r : Reg) (s u : State) (body : Result) :
    evenPair r s body = .next u ↔ oddReg r = false ∧ body = .next u := by
  unfold evenPair
  cases oddReg r <;> simp [illegal]

theorem storeThen_next_iff (a : Word) (bytes : List Byte) (after : State → State) (s u : State) :
    storeThen a bytes after s = .next u ↔
      ∃ m, s.mem.write s.cfg a bytes = .ok m ∧ u = { (after { s with mem := m }).advance with writes := [⟨a, bytes⟩] } := by
  unfold storeThen
  cases s.mem.write s.cfg a bytes <;> simp [eq_comm]

theorem storeThen_fault_iff (a : Word) (bytes : List Byte) (after : State → State) (s : State) (f : Fault) :
    storeThen a bytes after s = .fault f ↔ ∃ l, s.mem.write s.cfg a bytes = .error l ∧ f = .allocationFailed l := by
  unfold storeThen
  cases s.mem.write s.cfg a bytes <;> simp [eq_comm]

/-! ### Taking a trap (60_exceptions R1011) -/

theorem window_takeTrap (tt : BitVec 8) (s : State) : (takeTrap tt s).window = s.previousWindow.toNat := by
  simp [State.window]

theorem takeTrap_w_length (tt : BitVec 8) (s : State) : (takeTrap tt s).w.length = s.w.length := by
  unfold takeTrap
  simp

/-- l1 of the new window holds the pc of the trapping instruction, and l2 its npc. -/
theorem takeTrap_saves {s : State} (h : s.Shaped) (tt : BitVec 8) :
    (takeTrap tt s).x 17 = s.pc ∧ (takeTrap tt s).x 18 = s.npc := by
  let e : State := { s with psr := Psr.enterTrap s.psr s.previousWindow }
  have he : e.Shaped := ⟨h.1, h.2.1, by
    show (Psr.cwp (Psr.enterTrap s.psr s.previousWindow)).toNat < _
    rw [Psr.cwp_enterTrap]; exact previousWindow_lt h.1⟩
  have h1 : (e.setX 17 s.pc).Shaped := ⟨h.1, (State.setX_w_length ..).trans h.2.1, he.2.2⟩
  constructor
  · have := x_setX_ne h1 (r := 18) (r' := 17) (by decide) s.npc
    rw [x_setX_same he, if_neg (by decide)] at this
    exact this
  · have := x_setX_same h1 18 s.npc
    rw [if_neg (by decide)] at this
    exact this

/-- A trap changes no integer register but l1 and l2 of the new window. -/
theorem takeTrap_readSlot {s : State} (tt : BitVec 8) {sl : Slot}
    (h1 : sl ≠ resolve s.cfg.nwindows s.previousWindow.toNat 17)
    (h2 : sl ≠ resolve s.cfg.nwindows s.previousWindow.toNat 18) : (takeTrap tt s).readSlot sl = s.readSlot sl := by
  let e : State := { s with psr := Psr.enterTrap s.psr s.previousWindow }
  have hw : e.window = s.previousWindow.toNat := by simp [e, State.window]
  show ((e.setX 17 s.pc).setX 18 s.npc).readSlot sl = _
  rw [readSlot_setX_ne _ _ (by simpa [hw] using h2), readSlot_setX_ne _ _ (by simpa [hw] using h1)]
  rfl

end Sys2Proof.Machine
end

