-- ==== Sys2Proof/Laws/Step.lean ====
section
/-! SUPPORT. What executing an instruction can do, said once for all of them, and what a step makes of it
(40_execution_engine R402, R416). -/

namespace Sys2Proof.Machine

/-- What an instruction may do to memory: nothing, or one aligned write that is its list W (44_load_store R803). -/
def Wrote (s t : State) : Prop :=
  (t.mem = s.mem ∧ t.writes = []) ∨
    ∃ a bytes, (bytes.length = 1 ∨ bytes.length = 2 ∨ bytes.length = 4 ∨ bytes.length = 8) ∧
      aligned a bytes.length = true ∧ s.mem.write s.cfg a bytes = .ok t.mem ∧ t.writes = [⟨a, bytes⟩]

/-- The FSR that trap entry may find: the old one, or one with the writes of a trapping FPop (45_floating_point R901,
R902). -/
def TrapFsr (old v : Word) : Prop :=
  v = old ∨ (∃ e, e ≠ 0 ∧ v = Fsr.ieeeTrap old e) ∨ v = Fsr.unimplementedTrap old

/-- The trap types that instructions raise (60_exceptions R1001): all but the three the core never raises. -/
def TrapType.raised : TrapType → Bool
  | .illegalInstruction | .unimplementedFlush | .unimplementedInstruction => false
  | _ => true

/-- What every instruction that completes leaves as it was, and the bounds on what it changes. -/
structure Completed (s t : State) : Prop where
  cfg : t.cfg = s.cfg
  errorMode : t.errorMode = s.errorMode
  viewOverride : t.viewOverride = s.viewOverride
  last : t.last = s.last
  bps : t.bps = s.bps
  report : t.report = .continued none
  length : t.w.length = s.w.length
  window : s.Shaped → t.window < s.cfg.nwindows
  aligned : s.PcAligned → t.PcAligned
  impl : Psr.impl t.psr = Psr.impl s.psr
  ver : Psr.ver t.psr = Psr.ver s.psr
  fsrVer : Fsr.ver t.fsr = Fsr.ver s.fsr
  fsrQne : Fsr.qne t.fsr = Fsr.qne s.fsr
  wrote : Wrote s t
  user : Psr.s s.psr = false →
    t.wim = s.wim ∧ t.tbr = s.tbr ∧
      castToPSR t.psr = { castToPSR s.psr with icc := Psr.icc t.psr, cwp := Psr.cwp t.psr }

/-- What an instruction that gives a next state can do: complete, take a trap, or enter error mode. -/
inductive Ran (s : State) : State → Prop
  | completed {t : State} (h : Completed s t) : Ran s t
  | trapped (t : TrapType) (ht : t.raised = true) (v : Word) (hv : TrapFsr s.fsr v) (het : Psr.et s.psr = true) :
    Ran s (takeTrap t.tt (s.setFsr v))
  | stopped (t : TrapType) (ht : t.raised = true) (v : Word) (hv : TrapFsr s.fsr v) (het : Psr.et s.psr = false) :
    Ran s (enterErrorMode t.tt (s.setFsr v))

/-- What an instruction can answer: a next state as `Ran` says, IllegalInstruction at the fetch address, or an
allocation failure; never a refusal. -/
def Answers (s : State) : Result → Prop
  | .next t => Ran s t
  | .fault f => f = .illegalInstruction s.fetchAddr s.fetchWord ∨ ∃ l, f = .allocationFailed l
  | .refused _ => False

/-! ### The guards -/

theorem answers_raise_setFsr (s : State) (t : TrapType) {v : Word} (hv : TrapFsr s.fsr v)
    (ht : t.raised = true := by rfl) :
    Answers s (raise t (s.setFsr v)) := by
  unfold raise
  rcases h : Psr.et (s.setFsr v).psr with _ | _
  · exact Ran.stopped t ht v hv h
  · exact Ran.trapped t ht v hv h

theorem answers_raise (s : State) (t : TrapType) (ht : t.raised = true := by rfl) : Answers s (raise t s) :=
  answers_raise_setFsr s t (v := s.fsr) (.inl rfl) ht

theorem answers_illegal (s : State) : Answers s (illegal s) := .inl rfl

theorem answers_privileged {s : State} {body : Result} (h : Psr.s s.psr = true → Answers s body) :
    Answers s (privileged s body) := by
  unfold privileged
  rcases hs : Psr.s s.psr with _ | _
  · exact answers_raise s _
  · exact h hs

theorem answers_fpEnabled {s : State} {body : Result} (h : Answers s body) : Answers s (fpEnabled s body) := by
  unfold fpEnabled
  split_ifs
  · exact h
  · exact answers_raise s _

theorem answers_evenPair {s : State} {r : Reg} {body : Result} (h : Answers s body) : Answers s (evenPair r s body) := by
  unfold evenPair
  split_ifs
  · exact answers_illegal s
  · exact h

theorem answers_whenAligned {s : State} {a : Word} {n : Nat} {body : Result} (h : aligned a n = true → Answers s body) :
    Answers s (whenAligned a n s body) := by
  unfold whenAligned
  rcases ha : aligned a n with _ | _
  · exact answers_raise s _
  · exact h ha

/-! ### Completion -/

/-- An update that writes registers, y, f, icc and the FSR, but no other part of the PSR and no memory. -/
structure Quiet (s t : State) : Prop where
  cfg : t.cfg = s.cfg
  errorMode : t.errorMode = s.errorMode
  viewOverride : t.viewOverride = s.viewOverride
  last : t.last = s.last
  bps : t.bps = s.bps
  length : t.w.length = s.w.length
  pc : t.pc = s.pc
  npc : t.npc = s.npc
  mem : t.mem = s.mem
  wim : t.wim = s.wim
  tbr : t.tbr = s.tbr
  psr : castToPSR t.psr = { castToPSR s.psr with icc := Psr.icc t.psr }
  fsrVer : Fsr.ver t.fsr = Fsr.ver s.fsr
  fsrQne : Fsr.qne t.fsr = Fsr.qne s.fsr

theorem Quiet.refl (s : State) : Quiet s s := ⟨rfl, rfl, rfl, rfl, rfl, rfl, rfl, rfl, rfl, rfl, rfl, rfl, rfl, rfl⟩

theorem Quiet.trans {s t u : State} (h : Quiet s t) (k : Quiet t u) : Quiet s u where
  cfg := k.cfg.trans h.cfg
  errorMode := k.errorMode.trans h.errorMode
  viewOverride := k.viewOverride.trans h.viewOverride
  last := k.last.trans h.last
  bps := k.bps.trans h.bps
  length := k.length.trans h.length
  pc := k.pc.trans h.pc
  npc := k.npc.trans h.npc
  mem := k.mem.trans h.mem
  wim := k.wim.trans h.wim
  tbr := k.tbr.trans h.tbr
  psr := by rw [k.psr, h.psr]
  fsrVer := k.fsrVer.trans h.fsrVer
  fsrQne := k.fsrQne.trans h.fsrQne

theorem quiet_setX (s : State) (r : Reg) (v : Word) : Quiet s (s.setX r v) :=
  ⟨rfl, rfl, rfl, rfl, rfl, State.setX_w_length .., rfl, rfl, rfl, rfl, rfl, rfl, rfl, rfl⟩

theorem castToPSR_setIcc (p : Word) (i : Icc) : castToPSR (Psr.setIcc p i) = { castToPSR p with icc := i } := by
  simp [castToPSR]

theorem quiet_setIcc (s : State) (i : Icc) : Quiet s (s.setIcc i) := by
  refine ⟨rfl, rfl, rfl, rfl, rfl, rfl, rfl, rfl, rfl, rfl, rfl, ?_, rfl, rfl⟩
  rw [State.setIcc_psr, castToPSR_setIcc, Psr.icc_setIcc]

theorem quiet_setY (s : State) (v : Word) : Quiet s (s.setY v) :=
  ⟨rfl, rfl, rfl, rfl, rfl, rfl, rfl, rfl, rfl, rfl, rfl, rfl, rfl, rfl⟩

theorem quiet_setF (s : State) (r : Reg) (v : Word) : Quiet s (s.setF r v) :=
  ⟨rfl, rfl, rfl, rfl, rfl, rfl, rfl, rfl, rfl, rfl, rfl, rfl, rfl, rfl⟩

theorem quiet_setFd (s : State) (r : Reg) (v : BitVec 64) : Quiet s (s.setFd r v) :=
  (quiet_setF s r _).trans (quiet_setF _ _ _)

theorem quiet_setFsr (s : State) {v : Word} (h : Fsr.ver v = Fsr.ver s.fsr) (h' : Fsr.qne v = Fsr.qne s.fsr) :
    Quiet s (s.setFsr v) :=
  ⟨rfl, rfl, rfl, rfl, rfl, rfl, rfl, rfl, rfl, rfl, rfl, rfl, h, h'⟩

/-- A quiet update keeps the window. -/
theorem Quiet.window {s t : State} (h : Quiet s t) : t.window = s.window :=
  congrArg BitVec.toNat (congrArg PsrFields.cwp h.psr)

/-- A quiet update followed by a move of the pcs completes. -/
theorem Quiet.goTo {s t : State} (h : Quiet s t) (p n : Word)
    (ha : s.PcAligned → p.toNat % 4 = 0 ∧ n.toNat % 4 = 0) : Completed s (t.goTo p n) where
  cfg := h.cfg
  errorMode := h.errorMode
  viewOverride := h.viewOverride
  last := h.last
  bps := h.bps
  report := rfl
  length := h.length
  window := fun hs => lt_of_eq_of_lt h.window hs.2.2
  aligned := fun hs => ⟨(alignWord_eq_iff _).2 (ha hs).1, (alignWord_eq_iff _).2 (ha hs).2⟩
  impl := congrArg PsrFields.impl h.psr
  ver := congrArg PsrFields.ver h.psr
  fsrVer := h.fsrVer
  fsrQne := h.fsrQne
  wrote := .inl ⟨h.mem, rfl⟩
  user := fun _ => ⟨h.wim, h.tbr, by
    have hc : Psr.cwp t.psr = Psr.cwp s.psr := congrArg PsrFields.cwp h.psr
    rw [State.goTo_psr, hc]
    exact h.psr⟩

theorem npc_mod_four {s : State} (h : s.PcAligned) (k : Word) (hk : k.toNat % 4 = 0) : (s.npc + k).toNat % 4 = 0 :=
  add_mod_four ((alignWord_eq_iff _).1 h.2) hk

/-- A quiet update followed by the sequential advance completes. -/
theorem Quiet.advance {s t : State} (h : Quiet s t) : Completed s t.advance := by
  refine h.goTo t.npc (t.npc + 4) fun hs => ?_
  rw [h.npc]
  exact ⟨(alignWord_eq_iff _).1 hs.2, npc_mod_four hs 4 rfl⟩

/-- A quiet update followed by a delayed transfer completes. -/
theorem Quiet.jumpTo {s t : State} (h : Quiet s t) {a : Word} (ha : s.PcAligned → a.toNat % 4 = 0) :
    Completed s (t.jumpTo a) := by
  refine h.goTo t.npc a fun hs => ?_
  rw [h.npc]
  exact ⟨(alignWord_eq_iff _).1 hs.2, ha hs⟩

theorem completed_branch (s : State) (holds isAlways a : Bool) (d : BitVec 22) : Completed s (branch holds isAlways a d s) := by
  have hb : s.PcAligned → (branchTarget s.pc d).toNat % 4 = 0 := fun hs =>
    branchTarget_mod_four ((alignWord_eq_iff _).1 hs.1) d
  have hn : s.PcAligned → s.npc.toNat % 4 = 0 := fun hs => (alignWord_eq_iff _).1 hs.2
  unfold branch
  split_ifs
  · exact (Quiet.refl s).goTo _ _ fun hs => ⟨hb hs, add_mod_four (hb hs) rfl⟩
  · exact (Quiet.refl s).goTo _ _ fun hs => ⟨hn hs, hb hs⟩
  · exact (Quiet.refl s).goTo _ _ fun hs => ⟨npc_mod_four hs 4 rfl, npc_mod_four hs 8 rfl⟩
  · exact (Quiet.refl s).goTo _ _ fun hs => ⟨hn hs, npc_mod_four hs 4 rfl⟩

/-- A store completes with its write in W, or fails to allocate. -/
theorem answers_storeThen {s : State} {a : Word} {bytes : List Byte} {after : State → State}
    (hl : bytes.length = 1 ∨ bytes.length = 2 ∨ bytes.length = 4 ∨ bytes.length = 8)
    (ha : aligned a bytes.length = true) (hq : ∀ t, Quiet t (after t)) : Answers s (storeThen a bytes after s) := by
  unfold storeThen
  rcases hw : s.mem.write s.cfg a bytes with l | m
  · exact .inr ⟨l, rfl⟩
  · have h := (hq { s with mem := m }).advance
    exact Ran.completed
      { h with
        wrote := .inr ⟨a, bytes, hl, ha, by
          rw [show ({ (after { s with mem := m }).advance with writes := [⟨a, bytes⟩] } : State).mem = m from
            (hq { s with mem := m }).mem]
          exact hw, rfl⟩ }

end Sys2Proof.Machine
end

