-- ==== Sys2Proof/Laws/Exec.lean ====
section
/-! SUPPORT. What `exec` can answer, for every instruction (`exec_answers`), and what a step can answer
(`step_next`, `step_fault`, `step_not_refused`). -/

namespace Sys2Proof.Machine

/-! ### The shared forms -/

theorem answers_alu (s : State) (rd : Reg) (v : Word) : Answers s (aluResult rd v s) :=
  .completed (quiet_setX s rd v).advance

theorem answers_aluCc (s : State) (rd : Reg) (v : Word) (i : Icc) : Answers s (aluCcResult rd v i s) :=
  .completed ((quiet_setX s rd v).trans (quiet_setIcc _ i)).advance

theorem answers_taggedTrap (s : State) (rd : Reg) (v : Word) (i : Icc) (o : Bool) :
    Answers s (taggedTrapResult rd v i o s) := by
  unfold taggedTrapResult
  split_ifs
  · exact answers_raise s _
  · exact answers_aluCc s rd v _

theorem answers_mul (s : State) (rd : Reg) (p : BitVec 64) : Answers s (mulResult rd p s) :=
  .completed ((quiet_setX s rd _).trans (quiet_setY _ _)).advance

theorem answers_mulCc (s : State) (rd : Reg) (p : BitVec 64) : Answers s (mulCcResult rd p s) :=
  .completed (((quiet_setX s rd _).trans (quiet_setY _ _)).trans (quiet_setIcc _ _)).advance

theorem answers_div (s : State) (rd : Reg) (d : Word) (q : Word × Bool) : Answers s (divResult rd d q s) := by
  unfold divResult
  split_ifs
  · exact answers_raise s _
  · exact answers_alu s rd _

theorem answers_divCc (s : State) (rd : Reg) (d : Word) (q : Word × Bool) : Answers s (divCcResult rd d q s) := by
  unfold divCcResult
  split_ifs
  · exact answers_raise s _
  · exact answers_aluCc s rd _ _

theorem answers_branchIcc (s : State) (c : IntCond) (k a : Bool) (d : BitVec 22) : Answers s (branchIcc c k a d s) :=
  .completed (completed_branch s _ k a d)

theorem answers_branchFcc (s : State) (c : FpCond) (k a : Bool) (d : BitVec 22) : Answers s (branchFcc c k a d s) :=
  answers_fpEnabled (.completed (completed_branch s _ k a d))

theorem answers_load (s : State) (rd : Reg) (v : Word) : Answers s (loadResult rd v s) :=
  .completed (quiet_setX s rd v).advance

theorem answers_store (s : State) {a : Word} {bytes : List Byte}
    (hl : bytes.length = 1 ∨ bytes.length = 2 ∨ bytes.length = 4 ∨ bytes.length = 8)
    (ha : aligned a bytes.length = true) : Answers s (store a bytes s) :=
  answers_storeThen hl ha fun t => Quiet.refl t

theorem aligned_one (a : Word) : aligned a 1 = true := by simp [aligned, Nat.mod_one]

/-- A window move completes; the new window exists. -/
theorem answers_moveWindow (s : State) {new : BitVec 5} (rd rs1 : Reg) (op2 : Op2)
    (h : s.Shaped → new.toNat < s.cfg.nwindows) : Answers s (moveWindow new rd rs1 op2 s) := by
  refine .completed
    { cfg := rfl, errorMode := rfl, viewOverride := rfl, last := rfl, bps := rfl, report := rfl,
      length := State.setX_w_length .., window := fun hs => ?_, aligned := fun hs => ⟨hs.2, ?_⟩,
      impl := Psr.impl_setCwp .., ver := Psr.ver_setCwp .., fsrVer := rfl, fsrQne := rfl, wrote := .inl ⟨rfl, rfl⟩,
      user := fun _ => ⟨rfl, rfl, ?_⟩ }
  · show (Psr.cwp (Psr.setCwp s.psr new)).toNat < _
    rw [Psr.cwp_setCwp]
    exact h hs
  · exact (alignWord_eq_iff _).2 (npc_mod_four hs 4 rfl)
  · show castToPSR (Psr.setCwp s.psr new) = _
    simp [castToPSR]

/-- The return from a trap completes. -/
theorem completed_returnFromTrap {s : State} (hs : Psr.s s.psr = true) {a : Word} (ha : aligned a 4 = true) :
    Completed s (returnFromTrap a s) where
  cfg := rfl
  errorMode := rfl
  viewOverride := rfl
  last := rfl
  bps := rfl
  report := rfl
  length := rfl
  window := fun h => by
    show (Psr.cwp (Psr.returnFromTrap s.psr s.followingWindow)).toNat < _
    rw [Psr.cwp_returnFromTrap]
    exact followingWindow_lt h.1
  aligned := fun h => ⟨h.2, (alignWord_eq_iff _).2 ((aligned_iff a 4).1 ha)⟩
  impl := Psr.impl_returnFromTrap ..
  ver := Psr.ver_returnFromTrap ..
  fsrVer := rfl
  fsrQne := rfl
  wrote := .inl ⟨rfl, rfl⟩
  user := fun h => absurd (hs.symm.trans h) (by decide)

/-- A completion in supervisor mode that writes one of PSR, WIM and TBR. -/
theorem completed_stateWrite {s : State} (hs : Psr.s s.psr = true) (p w t : Word) (hi : Psr.impl p = Psr.impl s.psr)
    (hv : Psr.ver p = Psr.ver s.psr) (hc : s.Shaped → (Psr.cwp p).toNat < s.cfg.nwindows) :
    Completed s { s with psr := p, wim := w, tbr := t }.advance where
  cfg := rfl
  errorMode := rfl
  viewOverride := rfl
  last := rfl
  bps := rfl
  report := rfl
  length := rfl
  window := hc
  aligned := fun h => ⟨h.2, (alignWord_eq_iff _).2 (npc_mod_four h 4 rfl)⟩
  impl := hi
  ver := hv
  fsrVer := rfl
  fsrQne := rfl
  wrote := .inl ⟨rfl, rfl⟩
  user := fun h => absurd (hs.symm.trans h) (by decide)

/-! ### Floating point -/

theorem answers_fpComplete {s t : State} (e : BitVec 5) (h : Quiet s t) : Answers s (fpComplete e t s) := by
  unfold fpComplete
  split_ifs with he
  · exact answers_raise_setFsr s _ (.inr (.inl ⟨e, fun h => he (by rw [h]; exact BitVec.zero_and), rfl⟩))
  · exact .completed (h.trans (quiet_setFsr t (by simp) (by simp))).advance

theorem answers_fpSingle (s : State) (op : FpOp) (rd : Reg) (a b : BitVec 64) : Answers s (fpSingle op rd a b s) :=
  answers_fpComplete _ (quiet_setF s rd _)

theorem answers_fpDouble (s : State) (op : FpOp) (rd : Reg) (a b : BitVec 64) : Answers s (fpDouble op rd a b s) :=
  answers_fpComplete _ (quiet_setFd s rd _)

theorem answers_fpCompare (s : State) (r : BitVec 2 × BitVec 5) : Answers s (fpCompare r s) :=
  answers_fpComplete _ (quiet_setFsr s (by simp) (by simp))

theorem answers_unimplementedFPop (s : State) : Answers s (unimplementedFPop s) :=
  answers_fpEnabled (answers_raise_setFsr s _ (.inr (.inr rfl)))

/-! ### Every instruction -/

/-- What an instruction can answer, whatever the instruction and the state. -/
theorem exec_answers (i : Instr) (s : State) : Answers s (exec i s) := by
  cases i with
  | add rd rs1 op2 => exact answers_alu s _ _
  | addcc rd rs1 op2 => exact answers_aluCc s _ _ _
  | addx rd rs1 op2 => exact answers_alu s _ _
  | addxcc rd rs1 op2 => exact answers_aluCc s _ _ _
  | sub rd rs1 op2 => exact answers_alu s _ _
  | subcc rd rs1 op2 => exact answers_aluCc s _ _ _
  | subx rd rs1 op2 => exact answers_alu s _ _
  | subxcc rd rs1 op2 => exact answers_aluCc s _ _ _
  | and rd rs1 op2 => exact answers_alu s _ _
  | andcc rd rs1 op2 => exact answers_aluCc s _ _ _
  | andn rd rs1 op2 => exact answers_alu s _ _
  | andncc rd rs1 op2 => exact answers_aluCc s _ _ _
  | or rd rs1 op2 => exact answers_alu s _ _
  | orcc rd rs1 op2 => exact answers_aluCc s _ _ _
  | orn rd rs1 op2 => exact answers_alu s _ _
  | orncc rd rs1 op2 => exact answers_aluCc s _ _ _
  | xor rd rs1 op2 => exact answers_alu s _ _
  | xorcc rd rs1 op2 => exact answers_aluCc s _ _ _
  | xnor rd rs1 op2 => exact answers_alu s _ _
  | xnorcc rd rs1 op2 => exact answers_aluCc s _ _ _
  | sll rd rs1 op2 => exact answers_alu s _ _
  | srl rd rs1 op2 => exact answers_alu s _ _
  | sra rd rs1 op2 => exact answers_alu s _ _
  | sethi rd imm22 => exact answers_alu s _ _
  | nop => exact Ran.completed (Quiet.refl s).advance
  | taddcc rd rs1 op2 => exact answers_aluCc s _ _ _
  | taddcctv rd rs1 op2 => exact answers_taggedTrap s _ _ _ _
  | tsubcc rd rs1 op2 => exact answers_aluCc s _ _ _
  | tsubcctv rd rs1 op2 => exact answers_taggedTrap s _ _ _ _
  | mulscc rd rs1 op2 => exact Ran.completed (((quiet_setX s _ _).trans (quiet_setY _ _)).trans (quiet_setIcc _ _)).advance
  | umul rd rs1 op2 => exact answers_mul s _ _
  | smul rd rs1 op2 => exact answers_mul s _ _
  | umulcc rd rs1 op2 => exact answers_mulCc s _ _
  | smulcc rd rs1 op2 => exact answers_mulCc s _ _
  | udiv rd rs1 op2 => exact answers_div s _ _ _
  | sdiv rd rs1 op2 => exact answers_div s _ _ _
  | udivcc rd rs1 op2 => exact answers_divCc s _ _ _
  | sdivcc rd rs1 op2 => exact answers_divCc s _ _ _
  | ba a disp22 => exact answers_branchIcc s _ _ _ _
  | bn a disp22 => exact answers_branchIcc s _ _ _ _
  | bne a disp22 => exact answers_branchIcc s _ _ _ _
  | be a disp22 => exact answers_branchIcc s _ _ _ _
  | bg a disp22 => exact answers_branchIcc s _ _ _ _
  | ble a disp22 => exact answers_branchIcc s _ _ _ _
  | bge a disp22 => exact answers_branchIcc s _ _ _ _
  | bl a disp22 => exact answers_branchIcc s _ _ _ _
  | bgu a disp22 => exact answers_branchIcc s _ _ _ _
  | bleu a disp22 => exact answers_branchIcc s _ _ _ _
  | bcc a disp22 => exact answers_branchIcc s _ _ _ _
  | bcs a disp22 => exact answers_branchIcc s _ _ _ _
  | bpos a disp22 => exact answers_branchIcc s _ _ _ _
  | bneg a disp22 => exact answers_branchIcc s _ _ _ _
  | bvc a disp22 => exact answers_branchIcc s _ _ _ _
  | bvs a disp22 => exact answers_branchIcc s _ _ _ _
  | fba a disp22 => exact answers_branchFcc s _ _ _ _
  | fbn a disp22 => exact answers_branchFcc s _ _ _ _
  | fbu a disp22 => exact answers_branchFcc s _ _ _ _
  | fbg a disp22 => exact answers_branchFcc s _ _ _ _
  | fbug a disp22 => exact answers_branchFcc s _ _ _ _
  | fbl a disp22 => exact answers_branchFcc s _ _ _ _
  | fbul a disp22 => exact answers_branchFcc s _ _ _ _
  | fblg a disp22 => exact answers_branchFcc s _ _ _ _
  | fbne a disp22 => exact answers_branchFcc s _ _ _ _
  | fbe a disp22 => exact answers_branchFcc s _ _ _ _
  | fbue a disp22 => exact answers_branchFcc s _ _ _ _
  | fbge a disp22 => exact answers_branchFcc s _ _ _ _
  | fbuge a disp22 => exact answers_branchFcc s _ _ _ _
  | fble a disp22 => exact answers_branchFcc s _ _ _ _
  | fbule a disp22 => exact answers_branchFcc s _ _ _ _
  | fbo a disp22 => exact answers_branchFcc s _ _ _ _
  | call disp30 => exact Ran.completed ((quiet_setX s _ _).jumpTo fun h => callTarget_mod_four ((alignWord_eq_iff _).1 h.1) _)
  | jmpl rd rs1 op2 => exact answers_whenAligned fun h => Ran.completed ((quiet_setX s _ _).jumpTo fun _ => (aligned_iff _ 4).1 h)
  | rett rs1 op2 =>
    show Answers s (execRett rs1 op2 s)
    unfold execRett
    split_ifs
    · exact answers_illegal s
    · refine answers_privileged fun hs => ?_
      exact answers_raise s _
    · refine answers_privileged fun hs => ?_
      exact answers_whenAligned fun h => Ran.completed (completed_returnFromTrap hs h)
  | unimp imm22 => exact answers_illegal s
  | save rd rs1 op2 =>
    show Answers s (execSave rd rs1 op2 s)
    unfold execSave
    split_ifs
    · exact answers_raise s _
    · exact answers_moveWindow s rd rs1 op2 fun h => previousWindow_lt h.1
  | restore rd rs1 op2 =>
    show Answers s (execRestore rd rs1 op2 s)
    unfold execRestore
    split_ifs
    · exact answers_raise s _
    · exact answers_moveWindow s rd rs1 op2 fun h => followingWindow_lt h.1
  | rdy rd => exact Ran.completed (quiet_setX s _ _).advance
  | rdpsr rd => exact answers_privileged fun _ => Ran.completed (quiet_setX s _ _).advance
  | rdwim rd => exact answers_privileged fun _ => Ran.completed (quiet_setX s _ _).advance
  | rdtbr rd => exact answers_privileged fun _ => Ran.completed (quiet_setX s _ _).advance
  | wry rs1 op2 => exact Ran.completed (quiet_setY s _).advance
  | wrpsr rs1 op2 =>
    refine answers_privileged fun hs => ?_
    show Answers s (if _ then _ else _)
    split_ifs with hc
    · exact answers_illegal s
    · refine Ran.completed (completed_stateWrite hs _ s.wim s.tbr (Psr.impl_write ..) (Psr.ver_write ..) fun _ => ?_)
      rw [Psr.cwp_write]
      exact Nat.lt_of_not_le hc
  | wrwim rs1 op2 => exact answers_privileged fun h => Ran.completed (completed_stateWrite h s.psr _ s.tbr rfl rfl fun k => k.2.2)
  | wrtbr rs1 op2 => exact answers_privileged fun h => Ran.completed (completed_stateWrite h s.psr s.wim _ rfl rfl fun k => k.2.2)
  | stbar => exact Ran.completed (Quiet.refl s).advance
  | flush rs1 op2 => exact Ran.completed (Quiet.refl s).advance
  | ldsb rd rs1 op2 => exact answers_load s _ _
  | ldsh rd rs1 op2 => exact answers_whenAligned fun _ => answers_load s _ _
  | ldub rd rs1 op2 => exact answers_load s _ _
  | lduh rd rs1 op2 => exact answers_whenAligned fun _ => answers_load s _ _
  | ld rd rs1 op2 => exact answers_whenAligned fun _ => answers_load s _ _
  | ldd rd rs1 op2 => exact answers_evenPair (answers_whenAligned fun _ => Ran.completed ((quiet_setX s _ _).trans (quiet_setX _ _ _)).advance)
  | stb rd rs1 op2 => exact answers_store s (.inl rfl) (aligned_one _)
  | sth rd rs1 op2 => exact answers_whenAligned fun h => answers_store s (.inr (.inl rfl)) h
  | st rd rs1 op2 => exact answers_whenAligned fun h => answers_store s (.inr (.inr (.inl rfl))) h
  | std rd rs1 op2 => exact answers_evenPair (answers_whenAligned fun h => answers_store s (.inr (.inr (.inr rfl))) h)
  | ldstub rd rs1 op2 => exact answers_storeThen (.inl rfl) (aligned_one _) fun t => quiet_setX t _ _
  | swap rd rs1 op2 => exact answers_whenAligned fun h => answers_storeThen (.inr (.inr (.inl rfl))) h fun t => quiet_setX t _ _
  | ldf rd rs1 op2 => exact answers_fpEnabled (answers_whenAligned fun _ => Ran.completed (quiet_setF s _ _).advance)
  | lddf rd rs1 op2 => exact answers_evenPair (answers_fpEnabled (answers_whenAligned fun _ => Ran.completed (quiet_setFd s _ _).advance))
  | ldfsr rs1 op2 => exact answers_fpEnabled (answers_whenAligned fun _ =>
      Ran.completed (quiet_setFsr s (Fsr.ver_load _ _) (Fsr.qne_load _ _)).advance)
  | stf rd rs1 op2 => exact answers_fpEnabled (answers_whenAligned fun h => answers_store s (.inr (.inr (.inl rfl))) h)
  | stdf rd rs1 op2 => exact answers_evenPair (answers_fpEnabled (answers_whenAligned fun h => answers_store s (.inr (.inr (.inr rfl))) h))
  | stfsr rs1 op2 => exact answers_fpEnabled (answers_whenAligned fun h => answers_store s (.inr (.inr (.inl rfl))) h)
  | fmovs rd rs2 => exact answers_fpEnabled (answers_fpComplete 0 (quiet_setF s _ _))
  | fnegs rd rs2 => exact answers_fpEnabled (answers_fpComplete 0 (quiet_setF s _ _))
  | fabss rd rs2 => exact answers_fpEnabled (answers_fpComplete 0 (quiet_setF s _ _))
  | fsqrts rd rs2 => exact answers_fpEnabled (answers_fpSingle s _ _ _ _)
  | fsqrtd rd rs2 => exact answers_evenPair (answers_evenPair (answers_fpEnabled (answers_fpDouble s _ _ _ _)))
  | fadds rd rs1 rs2 => exact answers_fpEnabled (answers_fpSingle s _ _ _ _)
  | faddd rd rs1 rs2 => exact answers_evenPair (answers_evenPair (answers_evenPair (answers_fpEnabled (answers_fpDouble s _ _ _ _))))
  | fsubs rd rs1 rs2 => exact answers_fpEnabled (answers_fpSingle s _ _ _ _)
  | fsubd rd rs1 rs2 => exact answers_evenPair (answers_evenPair (answers_evenPair (answers_fpEnabled (answers_fpDouble s _ _ _ _))))
  | fmuls rd rs1 rs2 => exact answers_fpEnabled (answers_fpSingle s _ _ _ _)
  | fmuld rd rs1 rs2 => exact answers_evenPair (answers_evenPair (answers_evenPair (answers_fpEnabled (answers_fpDouble s _ _ _ _))))
  | fdivs rd rs1 rs2 => exact answers_fpEnabled (answers_fpSingle s _ _ _ _)
  | fdivd rd rs1 rs2 => exact answers_evenPair (answers_evenPair (answers_evenPair (answers_fpEnabled (answers_fpDouble s _ _ _ _))))
  | fsmuld rd rs1 rs2 => exact answers_evenPair (answers_fpEnabled (answers_fpDouble s _ _ _ _))
  | fitos rd rs2 => exact answers_fpEnabled (answers_fpSingle s _ _ _ _)
  | fdtos rd rs2 => exact answers_evenPair (answers_fpEnabled (answers_fpSingle s _ _ _ _))
  | fitod rd rs2 => exact answers_evenPair (answers_fpEnabled (answers_fpDouble s _ _ _ _))
  | fstod rd rs2 => exact answers_evenPair (answers_fpEnabled (answers_fpDouble s _ _ _ _))
  | fstoi rd rs2 => exact answers_fpEnabled (answers_fpSingle s _ _ _ _)
  | fdtoi rd rs2 => exact answers_evenPair (answers_fpEnabled (answers_fpSingle s _ _ _ _))
  | fcmps rs1 rs2 => exact answers_fpEnabled (answers_fpCompare s _)
  | fcmpd rs1 rs2 => exact answers_evenPair (answers_evenPair (answers_fpEnabled (answers_fpCompare s _)))
  | fcmpes rs1 rs2 => exact answers_fpEnabled (answers_fpCompare s _)
  | fcmped rs1 rs2 => exact answers_evenPair (answers_evenPair (answers_fpEnabled (answers_fpCompare s _)))
  | fpop1Unimplemented rd rs1 opf rs2 => exact answers_unimplementedFPop s
  | fpop2Unimplemented rd rs1 opf rs2 => exact answers_unimplementedFPop s

theorem exec_ran {i : Instr} {s t : State} (h : exec i s = .next t) : Ran s t := by
  have := exec_answers i s
  rwa [h] at this

theorem exec_fault {i : Instr} {s : State} {f : Fault} (h : exec i s = .fault f) :
    f = .illegalInstruction s.fetchAddr s.fetchWord ∨ ∃ l, f = .allocationFailed l := by
  have := exec_answers i s
  rwa [h] at this

/-- No instruction is refused. -/
theorem exec_not_refused (i : Instr) (s : State) (r : Refusal) : exec i s ≠ .refused r := by
  intro h
  have := exec_answers i s
  rwa [h] at this

/-! ### The step -/

/-- A step that gives a next state: its gates were open, an instruction was decoded and executed (R402). -/
theorem step_next {s t : State} (h : step s = .next t) :
    ∃ i u, frontEnd s = .ok i ∧ exec i s = .next u ∧ t = finish s u := by
  unfold step stepWith at h
  split at h
  · cases h
  · rename_i i hi
    split at h
    · rename_i u hu
      cases h
      exact ⟨i, u, hi, hu, rfl⟩
    · cases h
    · cases h

/-- A step that ends in a fault: at a gate or at the front, or in the instruction. -/
theorem step_fault {s : State} {f : Fault} (h : step s = .fault f) :
    frontEnd s = .error f ∨ ∃ i, frontEnd s = .ok i ∧ exec i s = .fault f := by
  unfold step stepWith at h
  split at h
  · cases h; exact .inl ‹_›
  · rename_i i hi
    split at h
    · cases h
    · cases h; exact .inr ⟨i, hi, ‹_›⟩
    · cases h

theorem step_not_refused (s : State) (r : Refusal) : step s ≠ .refused r := by
  intro h
  unfold step stepWith at h
  split at h
  · cases h
  · split at h
    · cases h
    · cases h
    · exact exec_not_refused _ _ _ ‹_›

/-- Opening the gates: what a decoded instruction says of the state (R402). -/
theorem frontEnd_ok {s : State} {i : Instr} (h : frontEnd s = .ok i) :
    s.errorMode = false ∧ s.window < s.cfg.nwindows ∧ decodeStage s.cfg s.fetchWord = some i ∧
      s.bps.matchExecution s.fetchAddr = none := by
  unfold frontEnd at h
  split_ifs at h with h1 h2
  split at h
  · cases h
  · rename_i j hj
    split at h
    · cases h
    · rename_i hb
      cases h
      exact ⟨by simpa using h1, by omega, hj, hb⟩

/-- What the post-check and the last-step record change: `last` and `report`, and nothing else (R430, R440). -/
theorem finish_eq (s u : State) : ∃ l r, finish s u = { u with last := l, report := r } := by
  unfold finish
  split
  · exact ⟨_, _, rfl⟩
  · exact ⟨u.last, u.report, rfl⟩

end Sys2Proof.Machine
end

