-- ==== Sys2Proof/Laws/Float.lean ====
section
/-! SUPPORT. Rounding as a function of the real number rounded: what `roundAt` and `Format.round` give depends on the
value alone, and a number with a sticky last bit rounds as every number in its place (45_floating_point R903). -/

namespace Sys2Proof.Machine

/-! ### The value of m * 2^e -/

/-- The real number m * 2^e. -/
noncomputable def dyadic (m : Nat) (e : Int) : ℝ := m * (2 : ℝ) ^ e

theorem two_zpow_pos (e : Int) : (0 : ℝ) < 2 ^ e := zpow_pos (by norm_num) e

/-- A difference of exponents as a quotient of natural powers. -/
theorem two_zpow_eq (d : Int) : (2 : ℝ) ^ d * 2 ^ (-d).toNat = 2 ^ d.toNat := by
  rcases le_total 0 d with h | h
  · lift d to Nat using h
    simp
  · obtain ⟨n, rfl⟩ : ∃ n : Nat, d = -n := ⟨(-d).toNat, by omega⟩
    simp

/-! ### Rounding a real number -/

/-- Whether the rounding of q + part, with 0 ≤ part < 1, goes up (10_state R121). -/
def RealUp (rd : BitVec 2) (neg : Bool) (q : Nat) (part : ℝ) : Prop :=
  match rd.toNat with
  | 0 => 1 / 2 < part ∨ part = 1 / 2 ∧ q % 2 = 1
  | 1 => False
  | 2 => neg = false ∧ part ≠ 0
  | _ => neg = true ∧ part ≠ 0

open Classical in
/-- A non-negative real number as a multiple of 2^x: the rounded multiple, and whether it is inexact. -/
noncomputable def roundReal (rd : BitVec 2) (neg : Bool) (v : ℝ) (x : Int) : Nat × Bool :=
  let q := ⌊v / 2 ^ x⌋₊
  (if RealUp rd neg q (v / 2 ^ x - q) then q + 1 else q, decide (v / 2 ^ x - q ≠ 0))

open Classical in
/-- `roundReal` from the whole multiples and the part of one that is left. -/
theorem roundReal_eq {rd : BitVec 2} {neg : Bool} {v : ℝ} {x : Int} {q : Nat} {part : ℝ} (hq : ⌊v / 2 ^ x⌋₊ = q)
    (hp : v / 2 ^ x - q = part) :
    roundReal rd neg v x = (if RealUp rd neg q part then q + 1 else q, decide (part ≠ 0)) := by
  subst hq hp; rfl

/-- Rounding q + r / u goes up as `roundsUp` says. -/
theorem realUp_iff (rd : BitVec 2) (neg : Bool) (q : Nat) {r u : Nat} (hu : 0 < u) :
    RealUp rd neg q (r / u) ↔ roundsUp rd neg (q % 2 == 1) (2 * r) u = true := by
  have hu' : (0 : ℝ) < u := by exact_mod_cast hu
  have hlt : (1 / 2 : ℝ) < r / u ↔ u < 2 * r := by
    rw [div_lt_div_iff₀ two_pos hu', one_mul, mul_comm]; exact_mod_cast Iff.rfl
  have heq : (r / u : ℝ) = 1 / 2 ↔ 2 * r = u := by
    rw [div_eq_div_iff hu'.ne' two_ne_zero, one_mul, mul_comm]; exact_mod_cast Iff.rfl
  have hne : (r / u : ℝ) ≠ 0 ↔ r ≠ 0 := by simp [hu'.ne']
  have hrd := rd.isLt
  unfold RealUp roundsUp
  rw [hlt, heq, hne]
  generalize rd.toNat = n at hrd
  interval_cases n <;> simp

/-- Rounding a number whose multiple of 2^x is q + r / u. -/
theorem roundReal_of_floor {rd : BitVec 2} {neg : Bool} {v : ℝ} {x : Int} {q r u : Nat} (hr : r < u)
    (h : v / 2 ^ x = q + r / u) :
    roundReal rd neg v x = (if roundsUp rd neg (q % 2 == 1) (2 * r) u then q + 1 else q, r != 0) := by
  have hu : (0 : ℝ) < u := by exact_mod_cast (Nat.zero_le r).trans_lt hr
  have hfloor : ⌊v / 2 ^ x⌋₊ = q := by
    rw [h, Nat.floor_eq_iff (by positivity)]
    have : (r / u : ℝ) < 1 := (div_lt_one hu).2 (by exact_mod_cast hr)
    exact ⟨by linarith [show (0 : ℝ) ≤ r / u by positivity], by linarith⟩
  rw [roundReal_eq hfloor (part := r / u) (by rw [h, add_sub_cancel_left])]
  ext1
  · classical exact if_congr (realUp_iff rd neg q ((Nat.zero_le r).trans_lt hr)) rfl rfl
  · by_cases h0 : r = 0 <;> simp [h0, hu.ne']

/-- `roundAt` rounds the number that its arguments stand for. -/
theorem roundAt_eq_roundReal (rd : BitVec 2) (neg : Bool) (m : Nat) (e x : Int) :
    roundAt rd neg m e x = roundReal rd neg (dyadic m e) x := by
  have hq : dyadic m e / 2 ^ x = m * 2 ^ (e - x) := by
    unfold dyadic; rw [mul_div_assoc, ← zpow_sub₀ (by norm_num)]
  unfold roundAt
  split_ifs with h
  · have hv : dyadic m e / 2 ^ x = ((m * 2 ^ (e - x).toNat : Nat) : ℝ) + ((0 : Nat) : ℝ) / ((1 : Nat) : ℝ) := by
      rw [hq]; push_cast; rw [← two_zpow_eq (e - x), show (-(e - x)).toNat = 0 by omega]; simp
    rw [roundReal_of_floor one_pos hv]
    unfold roundsUp
    split <;> simp
  · have hu : 0 < 2 ^ (x - e).toNat := by positivity
    refine (roundReal_of_floor (Nat.mod_lt m hu) ?_).symm
    have hdm : (m : ℝ) =
        2 ^ (x - e).toNat * ((m / 2 ^ (x - e).toNat : Nat) : ℝ) + ((m % 2 ^ (x - e).toNat : Nat) : ℝ) := by
      exact_mod_cast (Nat.div_add_mod m (2 ^ (x - e).toNat)).symm
    have h2 := two_zpow_eq (e - x)
    rw [show (e - x).toNat = 0 by omega, pow_zero, neg_sub] at h2
    rw [hq, eq_div_of_mul_eq (by positivity) h2]
    push_cast
    field_simp
    linarith

/-- Rounding does not pass a multiple of the unit. -/
theorem roundReal_le {rd : BitVec 2} {neg : Bool} {v : ℝ} {x : Int} {n : Nat} (hv : 0 ≤ v) (h : v ≤ n * 2 ^ x) :
    (roundReal rd neg v x).1 ≤ n := by
  have hx := two_zpow_pos x
  have hw : v / 2 ^ x ≤ n := (div_le_iff₀ hx).2 h
  have hf : ⌊v / 2 ^ x⌋₊ ≤ n := Nat.floor_le_of_le hw
  rw [roundReal_eq rfl rfl]
  dsimp only
  split_ifs with hu
  · rcases hf.lt_or_eq with h1 | h1
    · exact h1
    · exfalso
      have h2 : v / 2 ^ x = n := le_antisymm hw (by rw [← h1]; exact Nat.floor_le (by positivity))
      rw [h2, Nat.floor_natCast, sub_self] at hu
      revert hu; unfold RealUp; split <;> norm_num
  · exact hf

/-- Rounding does not fall below a multiple of the unit. -/
theorem le_roundReal {rd : BitVec 2} {neg : Bool} {v : ℝ} {x : Int} {n : Nat} (h : n * 2 ^ x ≤ v) :
    n ≤ (roundReal rd neg v x).1 := by
  have hw : (n : ℝ) ≤ v / 2 ^ x := (le_div_iff₀ (two_zpow_pos x)).2 h
  have hf : n ≤ ⌊v / 2 ^ x⌋₊ := Nat.le_floor hw
  rw [roundReal_eq rfl rfl]
  dsimp only
  split_ifs <;> omega

/-- `roundAt` does not pass a multiple of the unit. -/
theorem roundAt_le {rd : BitVec 2} {neg : Bool} {m n : Nat} {e x : Int} (h : dyadic m e ≤ dyadic n x) :
    (roundAt rd neg m e x).1 ≤ n := by
  rw [roundAt_eq_roundReal]
  exact roundReal_le (by unfold dyadic; positivity) h

/-- `roundAt` does not fall below a multiple of the unit. -/
theorem le_roundAt {rd : BitVec 2} {neg : Bool} {m n : Nat} {e x : Int} (h : dyadic n x ≤ dyadic m e) :
    n ≤ (roundAt rd neg m e x).1 := by
  rw [roundAt_eq_roundReal]
  exact le_roundReal h

/-! ### A sticky last bit -/

/-- m * 2^e stands for v: it equals v, or m is odd and of more than p bits, and v is less than one unit away. -/
def StandsFor (p m : Nat) (e : Int) (v : ℝ) : Prop :=
  dyadic m e = v ∨ m % 2 = 1 ∧ 2 ^ p ≤ m ∧ dyadic (m - 1) e < v ∧ v < dyadic (m + 1) e

/-- A part of a unit of 2n, with n even, that is within one of an odd r rounds as r does. -/
theorem realUp_congr (rd : BitVec 2) (neg : Bool) (q : Nat) {r n : Nat} {t : ℝ} (hr : r % 2 = 1) (hn : n % 2 = 0)
    (hlo : ((r : ℝ) - 1) < t * (2 * n)) (hhi : t * (2 * n) < r + 1) (hpos : 0 < n) :
    RealUp rd neg q t ↔ RealUp rd neg q (r / (2 * n)) := by
  have hu : (0 : ℝ) < 2 * n := by have : (0 : ℝ) < n := by exact_mod_cast hpos
                                  linarith
  have h1 : (1 : ℝ) ≤ r := by exact_mod_cast (by omega : 1 ≤ r)
  have ht : t ≠ 0 := fun h => by rw [h] at hlo; linarith
  have hr' : (r / (2 * n) : ℝ) ≠ 0 := (div_pos (by linarith) hu).ne'
  have key : (1 / 2 < t ↔ (1 / 2 : ℝ) < r / (2 * n)) ∧ t ≠ 1 / 2 ∧ (r / (2 * n) : ℝ) ≠ 1 / 2 := by
    rcases lt_or_gt_of_ne (show r ≠ n by omega) with h | h
    · have h' : (r : ℝ) + 1 ≤ n := by exact_mod_cast h
      have ht : t < 1 / 2 := by nlinarith
      have hq : (r / (2 * n) : ℝ) < 1 / 2 := by rw [div_lt_iff₀ hu]; linarith
      exact ⟨⟨fun h => absurd h ht.not_gt, fun h => absurd h hq.not_gt⟩, ht.ne, hq.ne⟩
    · have h' : (n : ℝ) + 1 ≤ r := by exact_mod_cast h
      have ht : 1 / 2 < t := by nlinarith
      have hq : (1 / 2 : ℝ) < r / (2 * n) := by rw [lt_div_iff₀ hu]; linarith
      exact ⟨⟨fun _ => hq, fun _ => ht⟩, ht.ne', hq.ne'⟩
  unfold RealUp
  split
  · simp only [key.1, key.2.1, key.2.2, false_and]
  · rfl
  · simp only [ne_eq, ht, hr']
  · simp only [ne_eq, ht, hr']

/-- A number with two bits more than the rounding keeps rounds as every number it stands for. -/
theorem roundReal_of_standsFor (rd : BitVec 2) (neg : Bool) {p m : Nat} {e x : Int} {v : ℝ} (h : StandsFor p m e v)
    (hx : 2 ^ p ≤ m → e + 2 ≤ x) : roundReal rd neg v x = roundReal rd neg (dyadic m e) x := by
  rcases h with rfl | ⟨hm, hp, hlo, hhi⟩
  · rfl
  obtain ⟨d, rfl⟩ : ∃ d : Nat, x = e + 2 + d := ⟨(x - (e + 2)).toNat, by have := hx hp; omega⟩
  have he := two_zpow_pos e
  obtain ⟨n, hn⟩ : ∃ n, n = 2 * 2 ^ d := ⟨_, rfl⟩
  have hpos : 0 < n := by rw [hn]; positivity
  have hu : (0 : ℝ) < 2 * n := by have : (0 : ℝ) < n := by exact_mod_cast hpos
                                  linarith
  have hscale : (2 : ℝ) ^ (e + 2 + d) = 2 ^ e * (2 * n) := by
    rw [zpow_add₀ (by norm_num), zpow_add₀ (by norm_num), hn]; push_cast; simp; ring
  obtain ⟨w, rfl⟩ : ∃ w, v = w * 2 ^ e := ⟨v / 2 ^ e, by field_simp⟩
  have hw : w * 2 ^ e / 2 ^ (e + 2 + (d : Int)) = w / (2 * n) := by rw [hscale]; field_simp
  have hmm : dyadic m e / 2 ^ (e + 2 + (d : Int)) = m / (2 * n) := by rw [hscale, dyadic]; field_simp
  have h1 : ((m - 1 : Nat) : ℝ) = m - 1 := by rw [Nat.cast_sub (by omega)]; simp
  replace hlo : (m : ℝ) - 1 < w := by
    rw [dyadic, h1] at hlo; exact lt_of_mul_lt_mul_right hlo he.le
  replace hhi : w < (m : ℝ) + 1 := by
    rw [dyadic] at hhi; push_cast at hhi; exact lt_of_mul_lt_mul_right hhi he.le
  obtain ⟨q, r, hqr, hr⟩ : ∃ q r, m = 2 * n * q + r ∧ r < 2 * n :=
    ⟨m / (2 * n), m % (2 * n), (Nat.div_add_mod ..).symm, Nat.mod_lt _ (by omega)⟩
  have hr2 : r % 2 = 1 := by rw [hqr, mul_assoc] at hm; omega
  have hmr : (m : ℝ) = 2 * n * q + r := by exact_mod_cast hqr
  have hr1 : (1 : ℝ) ≤ r := by exact_mod_cast (by omega : 1 ≤ r)
  have hrn : (r : ℝ) + 1 ≤ 2 * n := by exact_mod_cast (by omega : r + 1 ≤ 2 * n)
  have hfm : ⌊(m : ℝ) / (2 * n)⌋₊ = q := by
    rw [Nat.floor_eq_iff (by positivity), le_div_iff₀ hu, div_lt_iff₀ hu]
    constructor <;> nlinarith
  have hfw : ⌊w / (2 * n)⌋₊ = q := by
    rw [Nat.floor_eq_iff (by have : 0 < w := by nlinarith
                             positivity), le_div_iff₀ hu, div_lt_iff₀ hu]
    constructor <;> nlinarith
  have em : (m : ℝ) / (2 * n) - q = r / (2 * n) := by rw [hmr]; field_simp; ring
  have hne : w / (2 * n) - q ≠ 0 := by
    rw [sub_ne_zero, ne_eq, div_eq_iff hu.ne']; nlinarith
  have hne' : (r / (2 * n) : ℝ) ≠ 0 := (div_pos (by linarith) hu).ne'
  have hup := realUp_congr rd neg q (t := w / (2 * n) - q) hr2 (by omega : n % 2 = 0)
    (by rw [sub_mul, div_mul_cancel₀ _ hu.ne']; nlinarith) (by rw [sub_mul, div_mul_cancel₀ _ hu.ne']; nlinarith) hpos
  rw [roundReal_eq (q := q) (part := w / (2 * n) - q) (by rw [hw, hfw]) (by rw [hw]),
    roundReal_eq (q := q) (part := r / (2 * n)) (by rw [hmm, hfm]) (by rw [hmm, em])]
  ext1
  · classical exact if_congr hup rfl rfl
  · simp only [hne, hne', ne_eq, not_false_iff]

/-! ### The place of the leading bit -/

/-- The leading bit of a number between 2^l and 2^(l + 1). -/
theorem log_eq_of_mem {v : ℝ} {l : Int} (h1 : (2 : ℝ) ^ l ≤ v) (h2 : v < 2 ^ (l + 1)) : Int.log 2 v = l := by
  have hv : 0 < v := (two_zpow_pos l).trans_le h1
  have a := (Int.zpow_le_iff_le_log (b := 2) (by norm_num) hv (x := l)).1 (by exact_mod_cast h1)
  have b := (Int.lt_zpow_iff_log_lt (b := 2) (by norm_num) hv (x := l + 1)).1 (by exact_mod_cast h2)
  omega

/-- The leading bit of m * 2^e is that of every number it stands for. -/
theorem log_of_standsFor {p m : Nat} {e : Int} {v : ℝ} (hm : m ≠ 0) (hp : p ≠ 0) (h : StandsFor p m e v) :
    Int.log 2 v = e + m.log2 := by
  have h1 := Nat.log2_self_le hm
  have h2 := @Nat.lt_log2_self m
  have place (k : Nat) : dyadic (2 ^ k) e = 2 ^ (e + k) := by
    rw [dyadic, zpow_add₀ (by norm_num), mul_comm]; simp
  have mono {a b : Nat} (h : a ≤ b) : dyadic a e ≤ dyadic b e :=
    mul_le_mul_of_nonneg_right (by exact_mod_cast h) (two_zpow_pos e).le
  have strict {a b : Nat} (h : a < b) : dyadic a e < dyadic b e :=
    mul_lt_mul_of_pos_right (by exact_mod_cast h) (two_zpow_pos e)
  refine log_eq_of_mem ?_ ?_
  · rw [← place]
    rcases h with rfl | ⟨ho, hb, hlo, -⟩
    · exact mono h1
    · refine (mono ?_).trans hlo.le
      have : m.log2 ≠ 0 := fun h0 => by
        rw [h0] at h2
        have : 2 ^ 1 ≤ 2 ^ p := Nat.pow_le_pow_right two_pos (by omega)
        omega
      obtain ⟨k, hk⟩ : ∃ k, m.log2 = k + 1 := ⟨m.log2 - 1, by omega⟩
      rw [hk, pow_succ] at h1 ⊢
      omega
  · rw [add_assoc, show ((m.log2 : Int) + 1) = ((m.log2 + 1 : Nat) : Int) by simp, ← place]
    rcases h with rfl | ⟨ho, -, -, hhi⟩
    · exact strict h2
    · refine hhi.trans_le (mono ?_)
      rw [pow_succ] at h2 ⊢
      omega

/-! ### Rounding into a format -/

/-- Rounding into a format gives the same for two numbers that stand for one number. -/
theorem round_congr (f : Format) (rd : BitVec 2) (neg : Bool) {m n : Nat} {e d : Int} {v : ℝ} (hm : m ≠ 0) (hn : n ≠ 0)
    (h : StandsFor (f.fracBits + 2) m e v) (k : StandsFor (f.fracBits + 2) n d v) :
    f.round rd neg m e = f.round rd neg n d := by
  have place : e + m.log2 = d + n.log2 := by
    rw [← log_of_standsFor hm (by omega) h, ← log_of_standsFor hn (by omega) k]
  have wide {m : Nat} (hm : m ≠ 0) (hb : 2 ^ (f.fracBits + 2) ≤ m) : f.fracBits + 2 ≤ m.log2 :=
    (Nat.le_log2 hm).2 hb
  have same (x : Int) (hx : e + m.log2 - f.fracBits ≤ x) : roundAt rd neg m e x = roundAt rd neg n d x := by
    rw [roundAt_eq_roundReal, roundAt_eq_roundReal, ← roundReal_of_standsFor rd neg h,
      ← roundReal_of_standsFor rd neg k]
    · intro hb; have := wide hn hb; omega
    · intro hb; have := wide hm hb; omega
  unfold Format.round
  simp only [if_neg hm, if_neg hn, ← place]
  rw [same _ (le_max_left ..), same _ le_rfl]

/-! ### The number that bits stand for -/

/-- A number from the fields of its bits. -/
theorem unpack_fields (f : Format) {bits : BitVec 64} {neg : Bool} {x y : Nat}
    (hn : bits.getLsbD (f.expBits + f.fracBits) = neg) (hx : bits.toNat / 2 ^ f.fracBits % 2 ^ f.expBits = x)
    (hy : bits.toNat % 2 ^ f.fracBits = y) (h : x ≠ 2 ^ f.expBits - 1) :
    f.unpack bits = if x = 0 then .fin neg y f.minExp else .fin neg (2 ^ f.fracBits + y) (f.minExp + x - 1) := by
  subst hn hx hy
  exact if_neg h

/-- The number that magnitude bits below those of infinity stand for. -/
theorem unpack_signed {f : Format} (hf : f ∈ [binary32, binary64]) (neg : Bool) {k : Nat} (hk : k < f.infBits) :
    f.unpack (f.signed neg k) =
      if k / 2 ^ f.fracBits = 0 then .fin neg k f.minExp
      else .fin neg (2 ^ f.fracBits + k % 2 ^ f.fracBits) (f.minExp + (k / 2 ^ f.fracBits : Nat) - 1) := by
  have hmod (h : k / 2 ^ f.fracBits = 0) : k % 2 ^ f.fracBits = k :=
    Nat.mod_eq_of_lt ((Nat.div_eq_zero_iff_lt (by positivity)).1 h)
  have fields : (f.signed neg k).getLsbD (f.expBits + f.fracBits) = neg ∧
      (f.signed neg k).toNat / 2 ^ f.fracBits % 2 ^ f.expBits = k / 2 ^ f.fracBits ∧
      (f.signed neg k).toNat % 2 ^ f.fracBits = k % 2 ^ f.fracBits ∧ k / 2 ^ f.fracBits ≠ 2 ^ f.expBits - 1 := by
    have ht : (f.signed neg k).toNat = ((if neg then 2 ^ (f.expBits + f.fracBits) else 0) + k) % 2 ^ 64 := rfl
    simp only [List.mem_cons, List.not_mem_nil, or_false] at hf
    rcases hf with rfl | rfl <;>
    · simp only [Format.infBits, binary32, binary64, Nat.reducePow, Nat.reduceSub, Nat.reduceMul] at hk
      rw [BitVec.getLsbD, ht, Nat.testBit_eq_decide_div_mod_eq]
      cases neg <;> simp [binary32, binary64] <;> omega
  rw [unpack_fields f fields.1 fields.2.1 fields.2.2.1 fields.2.2.2]
  split_ifs with h
  · rw [hmod h]
  · rfl

/-- Whether an overflow gives infinity, by the direction (10_state R121). -/
theorem overflowsToInf_eq (rd : BitVec 2) (neg : Bool) :
    overflowsToInf rd neg = decide (rd = 0 ∨ rd = 2 ∧ neg = false ∨ rd = 3 ∧ neg = true) := by
  revert rd neg; decide

/-! ### The quotient and the root -/

/-- A number cut off below its unit, with a sticky bit, stands for the number. -/
theorem standsFor_withSticky {p q : Nat} {cut : Bool} {w : ℝ} {e d : Int} (hq : 2 ^ p ≤ 2 * q) (hd : d = e - 1)
    (hlo : q ≤ w) (hhi : w < q + 1) (hcut : cut = true ↔ w ≠ q) :
    withSticky q cut ≠ 0 ∧ StandsFor p (withSticky q cut) d (w * 2 ^ e) := by
  have he := two_zpow_pos (e - 1)
  have h2 : (2 : ℝ) ^ e = 2 * 2 ^ (e - 1) := by rw [zpow_sub₀ (by norm_num)]; ring
  have hpos : 0 < 2 ^ p := by positivity
  subst hd
  rcases cut with _ | _
  · have hw : w = q := by by_contra h; exact Bool.false_ne_true (hcut.2 h)
    refine ⟨by simp [withSticky]; omega, .inl ?_⟩
    rw [dyadic, withSticky, hw, h2]; push_cast; simp; ring
  · have hw : (q : ℝ) < w := lt_of_le_of_ne hlo (hcut.1 rfl).symm
    refine ⟨by simp [withSticky], .inr ⟨by simp [withSticky], by simp [withSticky]; omega, ?_, ?_⟩⟩
    · simp only [withSticky, Bool.toNat_true, Nat.add_sub_cancel, dyadic]
      rw [h2]; push_cast; nlinarith
    · simp only [withSticky, Bool.toNat_true, dyadic]
      rw [h2]; push_cast; nlinarith

/-- What `divNumbers` hands to rounding stands for the quotient. -/
theorem divNumbers_standsFor (p : Nat) (neg : Bool) {ma mb : Nat} (ha : ma ≠ 0) (hb : mb ≠ 0) (ea eb : Int) :
    ∃ m e, divNumbers p neg ma ea mb eb = .num neg m e ∧ m ≠ 0 ∧
      StandsFor (p + 1) m e (dyadic ma ea / dyadic mb eb) := by
  obtain ⟨k, hk⟩ : ∃ k, k = p + 3 + mb.log2 := ⟨_, rfl⟩
  have hb' : (0 : ℝ) < mb := by exact_mod_cast Nat.pos_of_ne_zero hb
  have hw : (((ma * 2 ^ k : Nat) : ℝ) / mb) * 2 ^ (ea - eb - k) = dyadic ma ea / dyadic mb eb := by
    have h1 := two_zpow_pos eb
    rw [dyadic, dyadic, zpow_sub₀ (by norm_num), zpow_sub₀ (by norm_num)]; push_cast; rw [zpow_natCast]; field_simp
  have hdm : ((ma * 2 ^ k : Nat) : ℝ) = mb * ((ma * 2 ^ k / mb : Nat) : ℝ) + ((ma * 2 ^ k % mb : Nat) : ℝ) := by
    exact_mod_cast (Nat.div_add_mod (ma * 2 ^ k) mb).symm
  have hr : ((ma * 2 ^ k % mb : Nat) : ℝ) < mb := by exact_mod_cast Nat.mod_lt _ (Nat.pos_of_ne_zero hb)
  have hr0 : (0 : ℝ) ≤ ((ma * 2 ^ k % mb : Nat) : ℝ) := Nat.cast_nonneg _
  have hbig : 2 ^ (p + 1) ≤ ma * 2 ^ k / mb := by
    rw [Nat.le_div_iff_mul_le (Nat.pos_of_ne_zero hb)]
    have h1 := @Nat.lt_log2_self mb
    calc 2 ^ (p + 1) * mb ≤ 2 ^ (p + 1) * 2 ^ (mb.log2 + 1) := Nat.mul_le_mul_left _ h1.le
      _ = 2 ^ (p + 1 + (mb.log2 + 1)) := (pow_add ..).symm
      _ ≤ 2 ^ k := Nat.pow_le_pow_right two_pos (by omega)
      _ ≤ ma * 2 ^ k := Nat.le_mul_of_pos_left _ (Nat.pos_of_ne_zero ha)
  have h := standsFor_withSticky (p := p + 1) (q := ma * 2 ^ k / mb) (cut := ma * 2 ^ k % mb != 0)
    (w := ((ma * 2 ^ k : Nat) : ℝ) / mb) (e := ea - eb - k) (d := ea - eb - k - 1) (by omega) rfl
    (by rw [le_div_iff₀ hb']; linarith) (by rw [div_lt_iff₀ hb']; linarith)
    (by rw [ne_eq, div_eq_iff hb'.ne']
        constructor
        · intro h h'
          have : ((ma * 2 ^ k % mb : Nat) : ℝ) = 0 := by linarith
          simp_all
        · intro h
          by_contra h0
          exact h (by have : ma * 2 ^ k % mb = 0 := by simpa using h0
                      rw [hdm, this]; push_cast; ring))
  rw [hw] at h
  exact ⟨_, _, by rw [divNumbers, ← hk], h.1, h.2⟩

/-- The bits found so far and the bits below them bound the root. -/
theorem rootBitsBelow_spec (n i found : Nat) (h1 : found * found ≤ n) (h2 : n < (found + 2 ^ i) * (found + 2 ^ i)) :
    let r := rootBitsBelow n i found
    r * r ≤ n ∧ n < (r + 1) * (r + 1) := by
  induction i generalizing found with
  | zero => exact ⟨h1, by simpa [rootBitsBelow] using h2⟩
  | succ i ih =>
    unfold rootBitsBelow
    split_ifs with h
    · refine ih _ h ?_
      rw [pow_succ] at h2
      convert h2 using 2 <;> ring
    · exact ih _ h1 (by omega)

/-- The integer square root. -/
theorem integerRoot_spec (n : Nat) :
    integerRoot n * integerRoot n ≤ n ∧ n < (integerRoot n + 1) * (integerRoot n + 1) := by
  refine rootBitsBelow_spec n _ 0 (by simp) ?_
  rw [zero_add, ← pow_add]
  exact (@Nat.lt_log2_self n).trans_le (Nat.pow_le_pow_right two_pos (by omega))

/-- What `sqrtData` hands to rounding stands for the root. -/
theorem sqrtData_standsFor (p : Nat) {m : Nat} (hm : m ≠ 0) (e : Int) :
    ∃ n d, sqrtData p (.fin false m e) = .num false n d ∧ n ≠ 0 ∧ StandsFor (p + 1) n d (Real.sqrt (dyadic m e)) := by
  obtain ⟨k, hk⟩ : ∃ k, k = 2 * (p + 3) + (e % 2).toNat := ⟨_, rfl⟩
  obtain ⟨j, hj⟩ : ∃ j : Int, e - k = 2 * j := ⟨(e - k) / 2, by omega⟩
  have hpos : (0 : ℝ) ≤ ((m * 2 ^ k : Nat) : ℝ) := Nat.cast_nonneg _
  have hw : Real.sqrt ((m * 2 ^ k : Nat) : ℝ) * 2 ^ j = Real.sqrt (dyadic m e) := by
    have hj0 := two_zpow_pos j
    rw [← Real.sqrt_sq hj0.le, ← Real.sqrt_mul hpos, dyadic]
    congr 1
    rw [← zpow_natCast, ← zpow_mul, show e = j * (2 : Nat) + k by push_cast; omega, zpow_add₀ (by norm_num)]
    push_cast; rw [zpow_natCast 2 k]; ring
  obtain ⟨r, hr⟩ : ∃ r, r = integerRoot (m * 2 ^ k) := ⟨_, rfl⟩
  have hs := integerRoot_spec (m * 2 ^ k)
  rw [← hr] at hs
  have hbig : 2 ^ (p + 1) ≤ r := by
    by_contra hlt
    have h1 : (r + 1) * (r + 1) ≤ 2 ^ (p + 1) * 2 ^ (p + 1) := Nat.mul_le_mul (by omega) (by omega)
    rw [← pow_add] at h1
    have h2 : 2 ^ (p + 1 + (p + 1)) ≤ 2 ^ k := Nat.pow_le_pow_right two_pos (by omega)
    have h3 : 2 ^ k ≤ m * 2 ^ k := Nat.le_mul_of_pos_left _ (Nat.pos_of_ne_zero hm)
    omega
  have h := standsFor_withSticky (p := p + 1) (q := r) (cut := r * r != m * 2 ^ k)
    (w := Real.sqrt ((m * 2 ^ k : Nat) : ℝ)) (e := j) (d := j - 1) (by omega) rfl
    (Real.le_sqrt_of_sq_le (by rw [sq]; exact_mod_cast hs.1))
    (by rw [Real.sqrt_lt' (by positivity), sq]; exact_mod_cast hs.2)
    (by rw [ne_eq, Real.sqrt_eq_iff_mul_self_eq hpos (by positivity), bne_iff_ne, ne_eq, not_iff_not]
        exact_mod_cast eq_comm)
  rw [hw] at h
  refine ⟨_, _, ?_, h.1, h.2⟩
  simp only [sqrtData, if_neg hm, Bool.false_eq_true, if_false]
  rw [← hk, ← hr, show (e - k) / 2 = j by omega]

/-! ### The numbers that stand for a quotient or a root, by integers -/

/-- Equality and order of two numbers from those of their multiples. -/
theorem lt_of_scaled {a b c x y : ℝ} (hc : 0 < c) (ha : a = c * x) (hb : b = c * y) :
    (a = b ↔ x = y) ∧ (a < b ↔ x < y) := by
  subst ha hb
  exact ⟨mul_right_inj' hc.ne', mul_lt_mul_iff_right₀ hc⟩

/-- k * 2^e against a quotient, in natural numbers. -/
theorem quotient_iff (k ma mb : Nat) (e ea eb : Int) (hb : mb ≠ 0) :
    let d := ea - eb - e
    let v := dyadic ma ea / dyadic mb eb
    (k * mb * 2 ^ (-d).toNat = ma * 2 ^ d.toNat ↔ dyadic k e = v) ∧
      (k * mb * 2 ^ (-d).toNat < ma * 2 ^ d.toNat ↔ dyadic k e < v) ∧
      (ma * 2 ^ d.toNat < k * mb * 2 ^ (-d).toNat ↔ v < dyadic k e) := by
  intro d v
  have hb' : (0 : ℝ) < mb := by exact_mod_cast Nat.pos_of_ne_zero hb
  have h1 := two_zpow_pos e
  have h2 := two_zpow_pos eb
  obtain ⟨c, hc⟩ : ∃ c : ℝ, c = mb * 2 ^ (-d).toNat / 2 ^ e := ⟨_, rfl⟩
  have hc0 : 0 < c := by rw [hc]; positivity
  have ek : ((k * mb * 2 ^ (-d).toNat : Nat) : ℝ) = c * dyadic k e := by
    rw [hc, dyadic]; push_cast; field_simp
  have ev : ((ma * 2 ^ d.toNat : Nat) : ℝ) = c * v := by
    push_cast
    rw [← two_zpow_eq d, hc, show v = ma * 2 ^ ea / (mb * 2 ^ eb) from rfl,
      show (2 : ℝ) ^ d = 2 ^ ea / 2 ^ eb / 2 ^ e by rw [← zpow_sub₀ (by norm_num), ← zpow_sub₀ (by norm_num)]]
    field_simp
  have a := lt_of_scaled hc0 ek ev
  have b := lt_of_scaled hc0 ev ek
  refine ⟨?_, ?_, ?_⟩
  · rw [← a.1]; exact_mod_cast Iff.rfl
  · rw [← a.2]; exact_mod_cast Iff.rfl
  · rw [← b.2]; exact_mod_cast Iff.rfl

/-- k * 2^e against a square root, in natural numbers. -/
theorem root_iff (k m : Nat) (e d : Int) :
    let r := d - 2 * e
    let v := Real.sqrt (dyadic m d)
    (k * k * 2 ^ (-r).toNat = m * 2 ^ r.toNat ↔ dyadic k e = v) ∧
      (k * k * 2 ^ (-r).toNat < m * 2 ^ r.toNat ↔ dyadic k e < v) ∧
      (m * 2 ^ r.toNat < k * k * 2 ^ (-r).toNat ↔ v < dyadic k e) := by
  intro r v
  have h1 := two_zpow_pos e
  have hk : 0 ≤ dyadic k e := by unfold dyadic; positivity
  have hm : 0 ≤ dyadic m d := by unfold dyadic; positivity
  have hv : 0 ≤ v := Real.sqrt_nonneg _
  obtain ⟨c, hc⟩ : ∃ c : ℝ, c = 2 ^ (-r).toNat / (2 ^ e * 2 ^ e) := ⟨_, rfl⟩
  have hc0 : 0 < c := by rw [hc]; positivity
  have ek : ((k * k * 2 ^ (-r).toNat : Nat) : ℝ) = c * dyadic k e ^ 2 := by
    rw [hc, dyadic]; push_cast; field_simp
  have ev : ((m * 2 ^ r.toNat : Nat) : ℝ) = c * v ^ 2 := by
    push_cast
    rw [← two_zpow_eq r, hc, Real.sq_sqrt hm, dyadic,
      show (2 : ℝ) ^ r = 2 ^ d / (2 ^ e * 2 ^ e) by
        rw [← zpow_add₀ (by norm_num), ← zpow_sub₀ (by norm_num), show r = d - (e + e) by omega]]
    field_simp
  have a := lt_of_scaled hc0 ek ev
  have b := lt_of_scaled hc0 ev ek
  refine ⟨?_, ?_, ?_⟩
  · rw [← sq_eq_sq₀ hk hv, ← a.1]; exact_mod_cast Iff.rfl
  · rw [← sq_lt_sq₀ hk hv, ← a.2]; exact_mod_cast Iff.rfl
  · rw [← sq_lt_sq₀ hv hk, ← b.2]; exact_mod_cast Iff.rfl

end Sys2Proof.Machine
end

