-- ==== Sys2Proof/Laws/Frame.lean ====
section
/-! SUPPORT. One lemma per shared form of the meanings: what it gives and what it leaves as it was, in the words of
Sys2Proof/Safety.lean; and what raising a trap gives. -/

namespace Sys2Proof.Machine

theorem gives_next {t : State} {P : State → Prop} (h : P t) : Gives (.next t) P := ⟨t, rfl, h⟩

/-! ### The frame of each update -/

/-- What a state keeps of another is decided part by part. -/
theorem keptBut_of {s t : State} {changed : List Part} (e : s.EngineKept t)
    (hi : .integers ∈ changed ∨ ∀ slot, t.readSlot slot = s.readSlot slot)
    (hf : .floats ∈ changed ∨ ∀ r, t.fr r = s.fr r) (hc : .counters ∈ changed ∨ (t.pc = s.pc ∧ t.npc = s.npc))
    (hp : .psr ∈ changed ∨ t.psr = s.psr) (hr : .fsr ∈ changed ∨ t.fsr = s.fsr) (ht : .tbr ∈ changed ∨ t.tbr = s.tbr)
    (hw : .wim ∈ changed ∨ t.wim = s.wim) (hy : .y ∈ changed ∨ t.y = s.y)
    (hm : .memory ∈ changed ∨
      ((∀ a, t.mem.byte a = s.mem.byte a) ∧ t.mem.l2 = s.mem.l2 ∧ t.mem.pages = s.mem.pages)) :
    s.KeptBut t changed := by
  refine ⟨e, fun p h => ?_⟩
  cases p
  · exact hi.resolve_left h
  · exact hf.resolve_left h
  · exact hc.resolve_left h
  · exact hp.resolve_left h
  · exact hr.resolve_left h
  · exact ht.resolve_left h
  · exact hw.resolve_left h
  · exact hy.resolve_left h
  · exact hm.resolve_left h

/-- A write of x[r] and no other update. -/
theorem writesX_setX {s : State} (h : s.Shaped) (r : Reg) (v : Word) : s.WritesX r v (s.setX r v) := by
  refine ⟨xIn_setXIn_same h.2.1 h.2.2 r v, fun sl hsl => readSlot_setX_ne s v (hsl r (by simp))⟩

theorem castToPSR_icc (p : Word) (i : Icc) : castToPSR (Psr.setIcc p i) = { castToPSR p with icc := i } := by
  simp [castToPSR]

theorem quietly_advance (t : State) : Quietly t.advance := ⟨rfl, rfl⟩

/-! ### Integer forms -/

theorem gives_alu {s : State} (h : s.Shaped) (rd : Reg) (v : Word) :
    Gives (aluResult rd v s) fun t =>
      s.WritesX rd v t ∧ s.Advanced t ∧ Quietly t ∧ s.KeptBut t [.integers, .counters] := by
  refine gives_next ⟨writesX_setX h rd v, ⟨rfl, rfl⟩, ⟨rfl, rfl⟩, ?_⟩
  exact keptBut_of ⟨rfl, State.setX_w_length .., rfl, rfl, rfl, rfl⟩ (.inl (by simp)) (.inr fun _ => rfl)
    (.inl (by simp)) (.inr rfl) (.inr rfl) (.inr rfl) (.inr rfl) (.inr rfl) (.inr ⟨fun _ => rfl, rfl, rfl⟩)

theorem gives_aluCc {s : State} (h : s.Shaped) (rd : Reg) (v : Word) (i : Icc) :
    Gives (aluCcResult rd v i s) fun t =>
      s.WritesX rd v t ∧ castToPSR t.psr = { castToPSR s.psr with icc := i } ∧ s.Advanced t ∧ Quietly t ∧
        s.KeptBut t [.integers, .counters, .psr] := by
  refine gives_next ⟨writesX_setX h rd v, castToPSR_icc _ _, ⟨rfl, rfl⟩, ⟨rfl, rfl⟩, ?_⟩
  exact keptBut_of ⟨rfl, State.setX_w_length .., rfl, rfl, rfl, rfl⟩ (.inl (by simp)) (.inr fun _ => rfl)
    (.inl (by simp)) (.inl (by simp)) (.inr rfl) (.inr rfl) (.inr rfl) (.inr rfl) (.inr ⟨fun _ => rfl, rfl, rfl⟩)

theorem gives_mul {s : State} (h : s.Shaped) (rd : Reg) (p : BitVec 64) :
    Gives (mulResult rd p s) fun t =>
      s.WritesX rd (productLow p) t ∧ t.y = productHigh p ∧ s.Advanced t ∧ Quietly t ∧
        s.KeptBut t [.integers, .counters, .y] := by
  refine gives_next ⟨writesX_setX h rd _, rfl, ⟨rfl, rfl⟩, ⟨rfl, rfl⟩, ?_⟩
  exact keptBut_of ⟨rfl, State.setX_w_length .., rfl, rfl, rfl, rfl⟩ (.inl (by simp)) (.inr fun _ => rfl)
    (.inl (by simp)) (.inr rfl) (.inr rfl) (.inr rfl) (.inr rfl) (.inl (by simp)) (.inr ⟨fun _ => rfl, rfl, rfl⟩)

/-- The end of UMULcc, SMULcc and MULScc: x[rd], y and icc. -/
theorem gives_withYAndIcc {s : State} (h : s.Shaped) (rd : Reg) (v y : Word) (i : Icc) :
    Gives (.next (((s.setX rd v).setY y).setIcc i).advance) fun t =>
      s.WritesX rd v t ∧ t.y = y ∧ castToPSR t.psr = { castToPSR s.psr with icc := i } ∧ s.Advanced t ∧ Quietly t ∧
        s.KeptBut t [.integers, .counters, .psr, .y] := by
  refine gives_next ⟨writesX_setX h rd v, rfl, castToPSR_icc _ _, ⟨rfl, rfl⟩, ⟨rfl, rfl⟩, ?_⟩
  exact keptBut_of ⟨rfl, State.setX_w_length .., rfl, rfl, rfl, rfl⟩ (.inl (by simp)) (.inr fun _ => rfl)
    (.inl (by simp)) (.inl (by simp)) (.inr rfl) (.inr rfl) (.inr rfl) (.inl (by simp)) (.inr ⟨fun _ => rfl, rfl, rfl⟩)

theorem gives_div {s : State} (h : s.Shaped) (rd : Reg) {d : Word} (hd : d ≠ 0) (q : Word × Bool) :
    Gives (divResult rd d q s) fun t =>
      s.WritesX rd q.1 t ∧ s.Advanced t ∧ Quietly t ∧ s.KeptBut t [.integers, .counters] := by
  rw [divResult, if_neg hd]; exact gives_alu h rd q.1

theorem gives_divCc {s : State} (h : s.Shaped) (rd : Reg) {d : Word} (hd : d ≠ 0) (q : Word × Bool) :
    Gives (divCcResult rd d q s) fun t =>
      s.WritesX rd q.1 t ∧ castToPSR t.psr = { castToPSR s.psr with icc := divIcc q } ∧ s.Advanced t ∧ Quietly t ∧
        s.KeptBut t [.integers, .counters, .psr] := by
  rw [divCcResult, if_neg hd]; exact gives_aluCc h rd q.1 _

/-! ### Control transfer -/

/-- Any move of the program counters and nothing else. -/
theorem keptBut_goTo (s : State) (p n : Word) : s.KeptBut (s.goTo p n) [.counters] :=
  keptBut_of ⟨rfl, rfl, rfl, rfl, rfl, rfl⟩ (.inr fun _ => rfl) (.inr fun _ => rfl) (.inl (by simp)) (.inr rfl)
    (.inr rfl) (.inr rfl) (.inr rfl) (.inr rfl) (.inr ⟨fun _ => rfl, rfl, rfl⟩)

theorem gives_branch (s : State) (holds isAlways a : Bool) (d : BitVec 22) :
    Gives (.next (branch holds isAlways a d s)) fun t =>
      (t.pc, t.npc) = (if holds then
          (if a && isAlways && s.cfg.annulTakenBA then (branchTarget s.pc d, branchTarget s.pc d + 4)
            else (s.npc, branchTarget s.pc d))
        else (if a then (s.npc + 4, s.npc + 8) else (s.npc, s.npc + 4))) ∧ Quietly t ∧ s.KeptBut t [.counters] := by
  refine gives_next ?_
  unfold branch
  split_ifs <;> exact ⟨rfl, ⟨rfl, rfl⟩, keptBut_goTo ..⟩

theorem gives_link {s : State} (h : s.Shaped) (link : Reg) (target : Word) :
    Gives (.next ((s.setX link s.pc).jumpTo target)) fun t =>
      s.WritesX link s.pc t ∧ t.pc = s.npc ∧ t.npc = target ∧ Quietly t ∧ s.KeptBut t [.integers, .counters] := by
  refine gives_next ⟨writesX_setX h link s.pc, rfl, rfl, ⟨rfl, rfl⟩, ?_⟩
  exact keptBut_of ⟨rfl, State.setX_w_length .., rfl, rfl, rfl, rfl⟩ (.inl (by simp)) (.inr fun _ => rfl)
    (.inl (by simp)) (.inr rfl) (.inr rfl) (.inr rfl) (.inr rfl) (.inr rfl) (.inr ⟨fun _ => rfl, rfl, rfl⟩)

/-! ### Windows -/

/-- The state with another current window has the shape of a state. -/
theorem shaped_setCwp {s : State} (h : s.Shaped) {new : BitVec 5} (hn : new.toNat < s.cfg.nwindows) :
    (s.setCwp new).Shaped := ⟨h.1, h.2.1, by rw [State.window_setCwp]; exact hn⟩

theorem castToPSR_setCwp (p : Word) (c : BitVec 5) : castToPSR (Psr.setCwp p c) = { castToPSR p with cwp := c } := by
  simp [castToPSR]

theorem gives_moveWindow {s : State} (h : s.Shaped) {new : BitVec 5} (hn : new.toNat < s.cfg.nwindows)
    (rd rs1 : Reg) (op2 : Op2) :
    Gives (moveWindow new rd rs1 op2 s) fun t =>
      t.window = new.toNat ∧ castToPSR t.psr = { castToPSR s.psr with cwp := new } ∧
        t.x rd = (if rd = 0 then 0 else s.x rs1 + s.operand op2) ∧ s.SlotsKeptBut t new.toNat [rd] ∧
        s.Advanced t ∧ Quietly t ∧ s.KeptBut t [.integers, .counters, .psr] := by
  have hs := shaped_setCwp h hn
  refine gives_next ⟨?_, castToPSR_setCwp _ _, ?_, fun sl hsl => ?_, ⟨rfl, rfl⟩, ⟨rfl, rfl⟩, ?_⟩
  · rw [State.window_advance, State.window_setX, State.window_setCwp]
  · rw [State.x_advance, x_setX_same hs]; rfl
  · refine readSlot_setX_ne (s.setCwp new) _ ?_
    rw [State.window_setCwp]
    exact hsl rd (by simp)
  · exact keptBut_of ⟨rfl, State.setX_w_length .., rfl, rfl, rfl, rfl⟩ (.inl (by simp)) (.inr fun _ => rfl)
      (.inl (by simp)) (.inl (by simp)) (.inr rfl) (.inr rfl) (.inr rfl) (.inr rfl) (.inr ⟨fun _ => rfl, rfl, rfl⟩)

/-! ### Stores -/

/-- A store with an update of registers alone: the store as 20_memory R211 says it. -/
theorem gives_storeThen {s : State} {a : Word} {bytes : List Byte} (hl : bytes.length ≤ 8) (ha : s.Allocatable a)
    {after : State → State} {P : State → Prop}
    (hp : ∀ m, P { (after { s with mem := m }).advance with writes := [⟨a, bytes⟩] })
    (hq : ∀ m, (after { s with mem := m }).mem = m ∧ (after { s with mem := m }).npc = s.npc) :
    Gives (storeThen a bytes after s) fun t => s.Stores a bytes t ∧ P t := by
  obtain ⟨p, hpg⟩ := ha
  have hw : s.mem.write s.cfg a bytes = .ok (p.storeBytes a bytes) := by rw [Memory.write, hpg]
  unfold storeThen
  rw [hw]
  have hm := (hq (p.storeBytes a bytes)).1
  have hn := (hq (p.storeBytes a bytes)).2
  have hb : ∀ b, p.byte b = s.mem.byte b := by rw [ensure_ok hpg]; exact fun _ => rfl
  refine gives_next ⟨⟨fun k hk => ?_, fun b hb' => ?_, fun n => ?_, fun n => ?_, rfl, rfl, hn, ?_⟩, hp _⟩
  · show (after _).mem.byte _ = _
    rw [hm]
    rw [byte_storeBytes_stored p a bytes (by omega) k hk, List.getD_eq_getElem _ _ hk]
  · show (after _).mem.byte _ = _
    rw [hm, byte_storeBytes_outside p a b bytes (by omega) (by simpa using hb')]
    exact hb b
  · show n ∈ (after _).mem.pages ↔ _
    rw [hm, storeBytes_pages, ensure_ok hpg]
    exact mem_insertNumber ..
  · show n ∈ (after _).mem.l2 ↔ _
    rw [hm, storeBytes_l2, ensure_ok hpg]
    exact mem_insertNumber ..
  · show (after _).npc + 4 = _
    rw [hn]

theorem gives_store {s : State} {a : Word} {bytes : List Byte} (hl : bytes.length ≤ 8) (ha : s.Allocatable a) :
    Gives (store a bytes s) fun t => s.Stores a bytes t ∧ s.KeptBut t [.counters, .memory] :=
  gives_storeThen hl ha (after := id)
    (fun _ => keptBut_of ⟨rfl, rfl, rfl, rfl, rfl, rfl⟩ (.inr fun _ => rfl) (.inr fun _ => rfl) (.inl (by simp))
      (.inr rfl) (.inr rfl) (.inr rfl) (.inr rfl) (.inr rfl) (.inl (by simp)))
    fun _ => ⟨rfl, rfl⟩

/-- LDSTUB and SWAP: the store, and x[rd]. -/
theorem gives_storeLoading {s : State} (h : s.Shaped) {a : Word} {bytes : List Byte} (hl : bytes.length ≤ 8)
    (ha : s.Allocatable a) (rd : Reg) (v : Word) :
    Gives (storeThen a bytes (fun t => t.setX rd v) s) fun t =>
      s.Stores a bytes t ∧ s.WritesX rd v t ∧ s.KeptBut t [.integers, .counters, .memory] := by
  refine gives_storeThen hl ha (fun m => ⟨?_, ?_⟩) fun _ => ⟨rfl, rfl⟩
  · exact writesX_setX (s := { s with mem := m }) h rd v
  · exact keptBut_of ⟨rfl, State.setX_w_length .., rfl, rfl, rfl, rfl⟩ (.inl (by simp)) (.inr fun _ => rfl)
      (.inl (by simp)) (.inr rfl) (.inr rfl) (.inr rfl) (.inr rfl) (.inr rfl) (.inl (by simp))

theorem storeThen_fault {s : State} {a : Word} {l : AllocLevel} (h : s.mem.ensure s.cfg a = .error l)
    (bytes : List Byte) (after : State → State) : storeThen a bytes after s = .fault (.allocationFailed l) := by
  rw [storeThen, Memory.write, h]

/-! ### Floating point -/

/-- An update of f, fsr, pc, npc and the model's own fields. -/
theorem keptBut_float (s : State) (f : Vector Word 32) (fsr pc npc : Word) (r : Report) (w : List DataWrite) :
    s.KeptBut { s with f := f, fsr := fsr, pc := pc, npc := npc, report := r, writes := w }
      [.floats, .fsr, .counters] :=
  keptBut_of ⟨rfl, rfl, rfl, rfl, rfl, rfl⟩ (.inr fun _ => rfl) (.inl (by simp)) (.inl (by simp)) (.inr rfl)
    (.inl (by simp)) (.inr rfl) (.inr rfl) (.inr rfl) (.inr ⟨fun _ => rfl, rfl, rfl⟩)

theorem castToFSR_complete (p : Word) (e : BitVec 5) :
    castToFSR (Fsr.complete p e) = { castToFSR p with cexc := e, aexc := Fsr.aexc p ||| e, ftt := 0 } := by
  simp [castToFSR]

theorem castToFSR_ieeeTrap (p : Word) (e : BitVec 5) :
    castToFSR (Fsr.ieeeTrap p e) = { castToFSR p with cexc := e, ftt := 1 } := by
  simp [castToFSR]

theorem castToFSR_unimplementedTrap (p : Word) :
    castToFSR (Fsr.unimplementedTrap p) = { castToFSR p with ftt := 3 } := by
  simp [castToFSR]

theorem writesF_setF (s : State) (r : Reg) (v : Word) : s.WritesF r v (s.setF r v) :=
  ⟨fr_setF_same .., fun _ h => fr_setF_ne s h v⟩

theorem writesFd_setFd (s : State) (r : Reg) (v : BitVec 64) : s.WritesFd r v (s.setFd r v) :=
  ⟨fr_setFd_high .., fr_setFd_low .., fun _ h h' => fr_setFd_ne s h h' v⟩

theorem gives_fpSingleResult (s : State) (rd : Reg) (v : Word) {e : BitVec 5} (he : e &&& Fsr.tem s.fsr = 0) :
    Gives (fpComplete e (s.setF rd v) s) fun t =>
      s.WritesF rd v t ∧ castToFSR t.fsr = { castToFSR s.fsr with cexc := e, aexc := Fsr.aexc s.fsr ||| e, ftt := 0 } ∧
        s.Advanced t ∧ Quietly t ∧ s.KeptBut t [.floats, .fsr, .counters] := by
  rw [fpComplete, if_neg (by simp [he])]
  exact gives_next ⟨writesF_setF s rd v, castToFSR_complete _ _, ⟨rfl, rfl⟩, ⟨rfl, rfl⟩, keptBut_float s ..⟩

theorem gives_fpDoubleResult (s : State) (rd : Reg) (v : BitVec 64) {e : BitVec 5} (he : e &&& Fsr.tem s.fsr = 0) :
    Gives (fpComplete e (s.setFd rd v) s) fun t =>
      s.WritesFd rd v t ∧ castToFSR t.fsr = { castToFSR s.fsr with cexc := e, aexc := Fsr.aexc s.fsr ||| e, ftt := 0 } ∧
        s.Advanced t ∧ Quietly t ∧ s.KeptBut t [.floats, .fsr, .counters] := by
  rw [fpComplete, if_neg (by simp [he])]
  exact gives_next ⟨writesFd_setFd s rd v, castToFSR_complete _ _, ⟨rfl, rfl⟩, ⟨rfl, rfl⟩, keptBut_float s ..⟩

theorem gives_fpCompare (s : State) (r : BitVec 2 × BitVec 5) (he : r.2 &&& Fsr.tem s.fsr = 0) :
    Gives (fpCompare r s) fun t =>
      castToFSR t.fsr = { castToFSR s.fsr with
        fcc := r.1, cexc := r.2, aexc := Fsr.aexc s.fsr ||| r.2, ftt := 0 } ∧
        s.Advanced t ∧ Quietly t ∧ s.KeptBut t [.fsr, .counters] := by
  rw [fpCompare, fpComplete, if_neg (by simp [he])]
  refine gives_next ⟨?_, ⟨rfl, rfl⟩, ⟨rfl, rfl⟩, ?_⟩
  · show castToFSR (Fsr.complete (Fsr.setFcc s.fsr r.1) r.2) = _
    rw [castToFSR_complete]
    simp [castToFSR]
  · exact keptBut_of ⟨rfl, rfl, rfl, rfl, rfl, rfl⟩ (.inr fun _ => rfl) (.inr fun _ => rfl) (.inl (by simp)) (.inr rfl)
      (.inl (by simp)) (.inr rfl) (.inr rfl) (.inr rfl) (.inr ⟨fun _ => rfl, rfl, rfl⟩)

theorem fpComplete_raises (s w : State) {e : BitVec 5} (he : e &&& Fsr.tem s.fsr ≠ 0) :
    fpComplete e w s = raise .fpException (s.setFsr (Fsr.ieeeTrap s.fsr e)) := if_pos he

/-! ### The guards with their condition known -/

theorem privileged_supervisor {s : State} (h : Psr.s s.psr = true) (body : Result) : privileged s body = body := if_pos h
theorem privileged_user {s : State} (h : Psr.s s.psr = false) (body : Result) :
    privileged s body = raise .privilegedInstruction s := if_neg (by simp [h])
theorem fpEnabled_on {s : State} (h : Psr.ef s.psr = true) (body : Result) : fpEnabled s body = body := if_pos h
theorem fpEnabled_off {s : State} (h : Psr.ef s.psr = false) (body : Result) :
    fpEnabled s body = raise .fpDisabled s := if_neg (by simp [h])
theorem whenAligned_of {a : Word} {n : Nat} (h : a.toNat % n = 0) (s : State) (body : Result) :
    whenAligned a n s body = body := if_pos ((aligned_iff a n).2 h)
theorem whenAligned_not {a : Word} {n : Nat} (h : a.toNat % n ≠ 0) (s : State) (body : Result) :
    whenAligned a n s body = raise .memAddressNotAligned s := if_neg fun e => h ((aligned_iff a n).1 e)

theorem oddReg_iff (r : Reg) : oddReg r = true ↔ r.toNat % 2 = 1 := by
  rw [oddReg, BitVec.getLsbD, Nat.testBit_zero, decide_eq_true_iff]

theorem evenPair_even {r : Reg} (h : r.toNat % 2 = 0) (s : State) (body : Result) : evenPair r s body = body :=
  if_neg fun e => by have := (oddReg_iff r).1 e; omega
theorem evenPair_odd {r : Reg} (h : r.toNat % 2 = 1) (s : State) (body : Result) : evenPair r s body = illegal s :=
  if_pos ((oddReg_iff r).2 h)

/-! ### Raising a trap (60_exceptions R1010 to R1013) -/

theorem newTt_setTt (tt : BitVec 8) (t : Word) : NewTt tt t (Tbr.setTt t tt) := by
  refine ⟨?_, ?_, ?_⟩ <;> simp

theorem entry_eq (t : Word) (tt : BitVec 8) :
    Tbr.entry t tt = (Tbr.tba t).zeroExtend 32 <<< 12 ||| tt.zeroExtend 32 <<< 4 := by
  apply BitVec.eq_of_getLsbD_eq
  intro j hj
  rw [Tbr.getLsbD_entry t tt j hj]
  simp only [Tbr.tba, BitVec.getLsbD_or, BitVec.getLsbD_shiftLeft, BitVec.getLsbD_setWidth, BitVec.getLsbD_extractLsb']
  by_cases h4 : j < 4
  · simp [h4, show j < 12 by omega]
  · by_cases h12 : j < 12
    · simp [h4, h12, hj, show j - 4 < 32 by omega]
    · have h8 : tt.getLsbD (j - 4) = false := BitVec.getLsbD_of_ge _ _ (by omega)
      simp [h4, h12, hj, h8, show j - 12 < 20 by omega, show j - 12 < 32 by omega, show 12 + (j - 12) = j by omega]

theorem trapTaken_takeTrap {s : State} (h : s.Shaped) (tt : BitVec 8) (v : Word) :
    TrapTaken tt v s (takeTrap tt (s.setFsr v)) := by
  have hw : (s.setFsr v).previousWindow.toNat = (s.window + s.cfg.nwindows - 1) % s.cfg.nwindows :=
    previousWindow_toNat (s := s.setFsr v) h.1
  have hwin : (takeTrap tt (s.setFsr v)).window = (s.window + s.cfg.nwindows - 1) % s.cfg.nwindows :=
    (window_takeTrap ..).trans hw
  have hsv := takeTrap_saves (s := s.setFsr v) h tt
  refine ⟨?_, ?_, ?_, fun sl hsl => ?_, newTt_setTt tt s.tbr, entry_eq s.tbr tt, rfl, rfl, rfl, rfl, ?_⟩
  · show castToPSR (Psr.enterTrap s.psr _) = _
    simp [castToPSR, State.previousWindow, State.window]
  · rw [← hwin]; exact hsv.1
  · rw [← hwin]; exact hsv.2
  · refine takeTrap_readSlot (s := s.setFsr v) tt ?_ ?_ <;> rw [hw]
    · exact hsl 17 (by simp)
    · exact hsl 18 (by simp)
  · exact keptBut_of ⟨rfl, takeTrap_w_length .., rfl, rfl, rfl, rfl⟩ (.inl (by simp)) (.inr fun _ => rfl)
      (.inl (by simp)) (.inl (by simp)) (.inl (by simp)) (.inl (by simp)) (.inr rfl) (.inr rfl)
      (.inr ⟨fun _ => rfl, rfl, rfl⟩)

theorem errorModeEntered (s : State) (tt : BitVec 8) (v : Word) :
    ErrorModeEntered tt v s (enterErrorMode tt (s.setFsr v)) := ⟨newTt_setTt tt s.tbr, rfl⟩

theorem traps_raise_setFsr {s : State} (h : s.Shaped) (t : TrapType) (v : Word) :
    Traps t.tt v s (raise t (s.setFsr v)) := by
  unfold raise
  rcases he : Psr.et s.psr with _ | _
  · rw [if_neg (by rw [State.setFsr_psr, he]; decide)]
    exact ⟨_, rfl, by rw [he]; exact errorModeEntered s t.tt v⟩
  · rw [if_pos (by rw [State.setFsr_psr, he])]
    exact ⟨_, rfl, by rw [he]; exact trapTaken_takeTrap h t.tt v⟩

theorem traps_raise {s : State} (h : s.Shaped) (t : TrapType) : Traps t.tt s.fsr s (raise t s) :=
  traps_raise_setFsr h t s.fsr

end Sys2Proof.Machine
end

