-- ==== Sys2Proof/Tests/Slice0.lean ====
section
/-! SUPPORT. The tests: the refusals of the well-formedness checks, decoding of words written out from
30_encoding, steps from 95_test_vectors, and for each statement with hypotheses a state and operands that meet them. -/

namespace Sys2Proof.Tests

set_option Elab.async false

open Sys2Proof Sys2Proof.Machine

/-! ### Well-formedness -/

/-- 30_encoding R325: the word of `sethi 0, %g0` is NOP. -/
theorem test_wellFormed_refuses_sethi : (Instr.sethi 0 0).wellFormed = false := by decide

/-- 30_encoding R323: opf 0x041 is FADDs. -/
theorem test_wellFormed_refuses_fpop1 : (Instr.fpop1Unimplemented 0 0 0x041 0).wellFormed = false := by decide

/-- 30_encoding R324: opf 0x051 is FCMPs. -/
theorem test_wellFormed_refuses_fpop2 : (Instr.fpop2Unimplemented 0 0 0x051 0).wellFormed = false := by decide

/-! ### Decoding: a word for every row, field by field from 30_encoding R302 to R324 -/

/-- Each word decodes to its instruction. -/
def reads (l : List (Word × Instr)) : Bool := l.all fun p => (decode p.1).toOption == some p.2

theorem test_decode_arithmetic_1 : reads [
  (0b10_00011_000000_00001_0_00000000_00010, .add 3 1 (.reg 2)),
  (0b10_01110_010000_10001_0_00000000_11110, .addcc 14 17 (.reg 30)),
  (0b10_01000_001000_10000_1_1000000000000, .addx 8 16 (.imm (-4096))),
  (0b10_11111_011000_00110_1_0000000000100, .addxcc 31 6 (.imm 4)),
  (0b10_00011_000100_00001_0_00000000_00010, .sub 3 1 (.reg 2)),
  (0b10_01110_010100_10001_0_00000000_11110, .subcc 14 17 (.reg 30)),
  (0b10_01000_001100_10000_1_1000000000000, .subx 8 16 (.imm (-4096))),
  (0b10_11111_011100_00110_1_0000000000100, .subxcc 31 6 (.imm 4)),
  (0b10_00011_000001_00001_0_00000000_00010, .and 3 1 (.reg 2)),
  (0b10_01110_010001_10001_0_00000000_11110, .andcc 14 17 (.reg 30)),
  (0b10_01000_000101_10000_1_1000000000000, .andn 8 16 (.imm (-4096))),
  (0b10_11111_010101_00110_1_0000000000100, .andncc 31 6 (.imm 4)),
  (0b10_00011_000010_00001_0_00000000_00010, .or 3 1 (.reg 2)),
  (0b10_01110_010010_10001_0_00000000_11110, .orcc 14 17 (.reg 30)),
  (0b10_01000_000110_10000_1_1000000000000, .orn 8 16 (.imm (-4096))),
  (0b10_11111_010110_00110_1_0000000000100, .orncc 31 6 (.imm 4)),
  (0b10_00011_000011_00001_0_00000000_00010, .xor 3 1 (.reg 2)),
  (0b10_01110_010011_10001_0_00000000_11110, .xorcc 14 17 (.reg 30)),
  (0b10_01000_000111_10000_1_1000000000000, .xnor 8 16 (.imm (-4096)))] = true := by decide +kernel

theorem test_decode_arithmetic_2 : reads [
  (0b10_11111_010111_00110_1_0000000000100, .xnorcc 31 6 (.imm 4)),
  (0b10_00011_100101_00001_0_00000000_00010, .sll 3 1 (.reg 2)),
  (0b10_01110_100110_10001_0_00000000_11110, .srl 14 17 (.reg 30)),
  (0b10_01000_100111_10000_1_1000000000000, .sra 8 16 (.imm (-4096))),
  (0b00_00011_100_0001001000110100010101, .sethi 3 0x048D15),
  (0b00_00000_100_0000000000000000000000, .nop),
  (0b10_01110_100000_10001_0_00000000_11110, .taddcc 14 17 (.reg 30)),
  (0b10_01000_100010_10000_1_1000000000000, .taddcctv 8 16 (.imm (-4096))),
  (0b10_11111_100001_00110_1_0000000000100, .tsubcc 31 6 (.imm 4)),
  (0b10_00011_100011_00001_0_00000000_00010, .tsubcctv 3 1 (.reg 2)),
  (0b10_01110_100100_10001_0_00000000_11110, .mulscc 14 17 (.reg 30)),
  (0b10_01000_001010_10000_1_1000000000000, .umul 8 16 (.imm (-4096))),
  (0b10_11111_001011_00110_1_0000000000100, .smul 31 6 (.imm 4)),
  (0b10_00011_011010_00001_0_00000000_00010, .umulcc 3 1 (.reg 2)),
  (0b10_01110_011011_10001_0_00000000_11110, .smulcc 14 17 (.reg 30)),
  (0b10_01000_001110_10000_1_1000000000000, .udiv 8 16 (.imm (-4096))),
  (0b10_11111_001111_00110_1_0000000000100, .sdiv 31 6 (.imm 4)),
  (0b10_00011_011110_00001_0_00000000_00010, .udivcc 3 1 (.reg 2)),
  (0b10_01110_011111_10001_0_00000000_11110, .sdivcc 14 17 (.reg 30))] = true := by decide +kernel

theorem test_decode_branches_1 : reads [
  (0b00_0_1000_010_0000000000000000000100, .ba false 0x4),
  (0b00_1_0000_010_1111111111111111111111, .bn true 0x3FFFFF),
  (0b00_0_1001_010_1000000000000000000000, .bne false 0x200000),
  (0b00_1_0001_010_0111111111111111111111, .be true 0x1FFFFF),
  (0b00_0_1010_010_0000000000000000000100, .bg false 0x4),
  (0b00_1_0010_010_1111111111111111111111, .ble true 0x3FFFFF),
  (0b00_0_1011_010_1000000000000000000000, .bge false 0x200000),
  (0b00_1_0011_010_0111111111111111111111, .bl true 0x1FFFFF),
  (0b00_0_1100_010_0000000000000000000100, .bgu false 0x4),
  (0b00_1_0100_010_1111111111111111111111, .bleu true 0x3FFFFF),
  (0b00_0_1101_010_1000000000000000000000, .bcc false 0x200000),
  (0b00_1_0101_010_0111111111111111111111, .bcs true 0x1FFFFF),
  (0b00_0_1110_010_0000000000000000000100, .bpos false 0x4),
  (0b00_1_0110_010_1111111111111111111111, .bneg true 0x3FFFFF),
  (0b00_0_1111_010_1000000000000000000000, .bvc false 0x200000),
  (0b00_1_0111_010_0111111111111111111111, .bvs true 0x1FFFFF),
  (0b00_0_1000_110_0000000000000000000100, .fba false 0x4),
  (0b00_1_0000_110_1111111111111111111111, .fbn true 0x3FFFFF),
  (0b00_0_0111_110_1000000000000000000000, .fbu false 0x200000)] = true := by decide +kernel

theorem test_decode_branches_2 : reads [
  (0b00_1_0110_110_0111111111111111111111, .fbg true 0x1FFFFF),
  (0b00_0_0101_110_0000000000000000000100, .fbug false 0x4),
  (0b00_1_0100_110_1111111111111111111111, .fbl true 0x3FFFFF),
  (0b00_0_0011_110_1000000000000000000000, .fbul false 0x200000),
  (0b00_1_0010_110_0111111111111111111111, .fblg true 0x1FFFFF),
  (0b00_0_0001_110_0000000000000000000100, .fbne false 0x4),
  (0b00_1_1001_110_1111111111111111111111, .fbe true 0x3FFFFF),
  (0b00_0_1010_110_1000000000000000000000, .fbue false 0x200000),
  (0b00_1_1011_110_0111111111111111111111, .fbge true 0x1FFFFF),
  (0b00_0_1100_110_0000000000000000000100, .fbuge false 0x4),
  (0b00_1_1101_110_1111111111111111111111, .fble true 0x3FFFFF),
  (0b00_0_1110_110_1000000000000000000000, .fbule false 0x200000),
  (0b00_1_1111_110_0111111111111111111111, .fbo true 0x1FFFFF)] = true := by decide +kernel

theorem test_decode_control : reads [
  (0b01_111111111111111111111111111111, .call 0x3FFFFFFF),
  (0b10_01110_111000_10001_0_00000000_11110, .jmpl 14 17 (.reg 30)),
  (0b10_00000_111001_10000_1_1000000000000, .rett 16 (.imm (-4096))),
  (0b00_00101_000_0000000000000100100011, .unimp 0x123)] = true := by decide +kernel

theorem test_decode_windows_and_state : reads [
  (0b10_00011_111100_00001_0_00000000_00010, .save 3 1 (.reg 2)),
  (0b10_01110_111101_10001_0_00000000_11110, .restore 14 17 (.reg 30)),
  (0b10_01000_101000_00000_0_0000000000000, .rdy 8),
  (0b10_11111_101001_00000_0_0000000000000, .rdpsr 31),
  (0b10_00011_101010_00000_0_0000000000000, .rdwim 3),
  (0b10_01110_101011_00000_0_0000000000000, .rdtbr 14),
  (0b10_00000_110000_10000_1_1000000000000, .wry 16 (.imm (-4096))),
  (0b10_00000_110001_00110_1_0000000000100, .wrpsr 6 (.imm 4)),
  (0b10_00000_110010_00001_0_00000000_00010, .wrwim 1 (.reg 2)),
  (0b10_00000_110011_10001_0_00000000_11110, .wrtbr 17 (.reg 30)),
  (0b10_00000_101000_01111_0_0000000000000, .stbar),
  (0b10_00000_111011_00110_1_0000000000100, .flush 6 (.imm 4))] = true := by decide +kernel

theorem test_decode_memory : reads [
  (0b11_00011_001001_00001_0_00000000_00010, .ldsb 3 1 (.reg 2)),
  (0b11_01110_001010_10001_0_00000000_11110, .ldsh 14 17 (.reg 30)),
  (0b11_01000_000001_10000_1_1000000000000, .ldub 8 16 (.imm (-4096))),
  (0b11_11111_000010_00110_1_0000000000100, .lduh 31 6 (.imm 4)),
  (0b11_00011_000000_00001_0_00000000_00010, .ld 3 1 (.reg 2)),
  (0b11_01110_000011_10001_0_00000000_11110, .ldd 14 17 (.reg 30)),
  (0b11_01000_000101_10000_1_1000000000000, .stb 8 16 (.imm (-4096))),
  (0b11_11111_000110_00110_1_0000000000100, .sth 31 6 (.imm 4)),
  (0b11_00011_000100_00001_0_00000000_00010, .st 3 1 (.reg 2)),
  (0b11_01110_000111_10001_0_00000000_11110, .std 14 17 (.reg 30)),
  (0b11_01000_001101_10000_1_1000000000000, .ldstub 8 16 (.imm (-4096))),
  (0b11_11111_001111_00110_1_0000000000100, .swap 31 6 (.imm 4)),
  (0b11_00011_100000_00001_0_00000000_00010, .ldf 3 1 (.reg 2)),
  (0b11_01110_100011_10001_0_00000000_11110, .lddf 14 17 (.reg 30)),
  (0b11_00000_100001_10000_1_1000000000000, .ldfsr 16 (.imm (-4096))),
  (0b11_11111_100100_00110_1_0000000000100, .stf 31 6 (.imm 4)),
  (0b11_00011_100111_00001_0_00000000_00010, .stdf 3 1 (.reg 2)),
  (0b11_00000_100101_10001_0_00000000_11110, .stfsr 17 (.reg 30))] = true := by decide +kernel

theorem test_decode_floating_point_1 : reads [
  (0b10_00011_110100_00000_000000001_00010, .fmovs 3 2),
  (0b10_01110_110100_00000_000000101_11110, .fnegs 14 30),
  (0b10_01000_110100_00000_000001001_10110, .fabss 8 22),
  (0b10_11111_110100_00000_000101001_01010, .fsqrts 31 10),
  (0b10_00011_110100_00000_000101010_00010, .fsqrtd 3 2),
  (0b10_01110_110100_10001_001000001_11110, .fadds 14 17 30),
  (0b10_01000_110100_10000_001000010_10110, .faddd 8 16 22),
  (0b10_11111_110100_00110_001000101_01010, .fsubs 31 6 10),
  (0b10_00011_110100_00001_001000110_00010, .fsubd 3 1 2),
  (0b10_01110_110100_10001_001001001_11110, .fmuls 14 17 30),
  (0b10_01000_110100_10000_001001010_10110, .fmuld 8 16 22),
  (0b10_11111_110100_00110_001001101_01010, .fdivs 31 6 10),
  (0b10_00011_110100_00001_001001110_00010, .fdivd 3 1 2),
  (0b10_01110_110100_10001_001101001_11110, .fsmuld 14 17 30),
  (0b10_01000_110100_00000_011000100_10110, .fitos 8 22),
  (0b10_11111_110100_00000_011000110_01010, .fdtos 31 10),
  (0b10_00011_110100_00000_011001000_00010, .fitod 3 2),
  (0b10_01110_110100_00000_011001001_11110, .fstod 14 30),
  (0b10_01000_110100_00000_011010001_10110, .fstoi 8 22)] = true := by decide +kernel

theorem test_decode_floating_point_2 : reads [
  (0b10_11111_110100_00000_011010010_01010, .fdtoi 31 10),
  (0b10_00000_110101_00001_001010001_00010, .fcmps 1 2),
  (0b10_00000_110101_10001_001010010_11110, .fcmpd 17 30),
  (0b10_00000_110101_10000_001010101_10110, .fcmpes 16 22),
  (0b10_00000_110101_00110_001010110_01010, .fcmped 6 10),
  (0b10_00011_110100_00001_001000011_00010, .fpop1Unimplemented 3 1 0x043 2),
  (0b10_01110_110101_10001_001010011_11110, .fpop2Unimplemented 14 17 0x053 30)] = true := by decide +kernel

/-- 30_encoding R330: one word of each unrecognised class. -/
theorem test_unrecognised :
    decode 0x00400000 = .error .unassignedOp2 ∧ decode 0x01C00000 = .error .coprocessorBranch ∧
    decode 0x80480000 = .error .unassignedOp3 ∧ decode 0x81404000 = .error .ancillaryRegister ∧
    decode 0x83800000 = .error .ancillaryRegister ∧ decode 0x81B00000 = .error .coprocessorOperate ∧
    decode 0x91D02000 = .error .trapOnCondition ∧ decode 0xC0800000 = .error .alternateSpace ∧
    decode 0xC1300000 = .error .floatingPointQueue ∧ decode 0xC1800000 = .error .coprocessorMemory ∧
    decodeBytes [0x01] = .error .notOneWord := by
  refine ⟨rfl, rfl, rfl, rfl, rfl, rfl, rfl, rfl, rfl, rfl, rfl⟩

/-! ### One step of each instruction, from the default state of 95_test_vectors -/

/-- The start state of a vector: what differs from the defaults. -/
structure Setup where
  pc : Word := 0x1000
  npc : Word := 0x1004
  psr : Word := 0x10A0
  fsr : Word := 0
  tbr : Word := 0x4000
  wim : Word := 0
  y : Word := 0
  x : List (Reg × Word) := []
  f : List (Reg × Word) := []
  mem : List (Word × List Byte) := []

/-- The state of a setup. -/
def Setup.state (u : Setup) : State :=
  let s : State := { State.reset with
    pc := u.pc
    npc := u.npc
    psr := u.psr
    fsr := u.fsr
    tbr := u.tbr
    wim := u.wim
    y := u.y }
  let s := u.x.foldl (fun s p => s.setX p.1 p.2) s
  let s := u.f.foldl (fun s p => s.setF p.1 p.2) s
  { s with mem := u.mem.foldl (fun m p => (m.addPage s.cfg p.1).storeBytes p.1 p.2) s.mem }

/-- The memory of the integer load and store vectors (95_test_vectors 2.13). -/
def integerImage : List (Word × List Byte) := [(0x2000, [0x80, 0x81, 0xA2, 0xB3, 0x01, 0x02, 0x03, 0x04])]

/-- The memory of the floating-point load and store vectors: 1.0 and 2.0 (95_test_vectors 2.14). -/
def floatImage : List (Word × List Byte) := [(0x2000, [0x3F, 0x80, 0x00, 0x00, 0x40, 0x00, 0x00, 0x00])]

/-- One step on a word has an outcome, and the state after it a property. -/
def does (u : Setup) (w : Word) (out : Report) (p : State → Bool) : Bool :=
  match stepOutcome (u.state.withFetchWord 32 w.toNat) with
  | .ok (r, t) => r == out && p t
  | .error _ => false

/-- Each branch to pc + 16 is taken for exactly the listed values of the n-valued field that stands at bit `place` of
both the PSR and the FSR. -/
def takenFor (place n : Nat) (l : List (Instr × List Nat)) : Bool :=
  l.all fun p => (List.range n).all fun k =>
    let field : Word := BitVec.ofNat 32 (k <<< place)
    match exec p.1 (Setup.state { psr := 0x10A0 ||| field, fsr := field }) with
    | .next t => (t.npc == 0x1010) == p.2.contains k
    | _ => false

/-- 95_test_vectors 2.8: each Bicc is taken for the listed values of n z v c and for no other. -/
theorem test_bicc_conditions : takenFor 20 16 [
  (.bn false 4, []),
  (.be false 4, [4, 5, 6, 7, 12, 13, 14, 15]),
  (.ble false 4, [2, 3, 4, 5, 6, 7, 8, 9, 12, 13, 14, 15]),
  (.bl false 4, [2, 3, 6, 7, 8, 9, 12, 13]),
  (.bleu false 4, [1, 3, 4, 5, 6, 7, 9, 11, 12, 13, 14, 15]),
  (.bcs false 4, [1, 3, 5, 7, 9, 11, 13, 15]),
  (.bneg false 4, [8, 9, 10, 11, 12, 13, 14, 15]),
  (.bvs false 4, [2, 3, 6, 7, 10, 11, 14, 15]),
  (.ba false 4, [0, 1, 2, 3, 4, 5, 6, 7, 8, 9, 10, 11, 12, 13, 14, 15]),
  (.bne false 4, [0, 1, 2, 3, 8, 9, 10, 11]),
  (.bg false 4, [0, 1, 10, 11]),
  (.bge false 4, [0, 1, 4, 5, 10, 11, 14, 15]),
  (.bgu false 4, [0, 2, 8, 10]),
  (.bcc false 4, [0, 2, 4, 6, 8, 10, 12, 14]),
  (.bpos false 4, [0, 1, 2, 3, 4, 5, 6, 7]),
  (.bvc false 4, [0, 1, 4, 5, 8, 9, 12, 13])] = true := by decide +kernel

/-- 95_test_vectors 2.8: each FBfcc is taken for the listed values of fcc and for no other. -/
theorem test_fbfcc_conditions : takenFor 12 4 [
  (.fbn false 4, []),
  (.fbne false 4, [1, 2, 3]),
  (.fblg false 4, [1, 2]),
  (.fbul false 4, [1, 3]),
  (.fbl false 4, [1]),
  (.fbug false 4, [2, 3]),
  (.fbg false 4, [2]),
  (.fbu false 4, [3]),
  (.fba false 4, [0, 1, 2, 3]),
  (.fbe false 4, [0]),
  (.fbue false 4, [0, 3]),
  (.fbge false 4, [0, 2]),
  (.fbuge false 4, [0, 2, 3]),
  (.fble false 4, [0, 1]),
  (.fbule false 4, [0, 1, 3]),
  (.fbo false 4, [0, 1, 2])] = true := by decide +kernel

/-- 95_test_vectors AR-02. -/
theorem test_add : does {} 0x86007FFF (.continued none) (fun t => t.x 3 == 0xFFFFFFFF) = true := by decide +kernel

/-- 95_test_vectors AR-04. -/
theorem test_addcc : does { x := [(1, 0x7FFFFFFF), (2, 1)] } 0x86804002 (.continued none)
    (fun t => t.x 3 == 0x80000000 && t.psr == 0xA010A0) = true := by decide +kernel

/-- 95_test_vectors AR-06. -/
theorem test_addcc_2 : does { x := [(1, 0x80000000), (2, 0x80000000)] } 0x86804002 (.continued none)
    (fun t => t.x 3 == 0 && t.psr == 0x7010A0) = true := by decide +kernel

/-- 95_test_vectors AR-08. -/
theorem test_addx : does { psr := 0x1010A0, x := [(1, 1), (2, 2)] } 0x86404002 (.continued none)
    (fun t => t.x 3 == 4) = true := by decide +kernel

/-- 95_test_vectors AR-10. -/
theorem test_addxcc : does { psr := 0x1010A0, x := [(1, 0x7FFFFFFF)] } 0x86C04002 (.continued none)
    (fun t => t.x 3 == 0x80000000 && t.psr == 0xA010A0) = true := by decide +kernel

/-- 95_test_vectors AR-11. -/
theorem test_sub : does { x := [(1, 3), (2, 5)] } 0x86204002 (.continued none)
    (fun t => t.x 3 == 0xFFFFFFFE) = true := by decide +kernel

/-- 95_test_vectors AR-12. -/
theorem test_subcc : does { x := [(1, 0x80000000), (2, 1)] } 0x86A04002 (.continued none)
    (fun t => t.x 3 == 0x7FFFFFFF && t.psr == 0x2010A0) = true := by decide +kernel

/-- 95_test_vectors AR-13. -/
theorem test_subcc_2 : does { x := [(1, 1), (2, 2)] } 0x86A04002 (.continued none)
    (fun t => t.x 3 == 0xFFFFFFFF && t.psr == 0x9010A0) = true := by decide +kernel

/-- 95_test_vectors AR-15. -/
theorem test_subx : does { psr := 0x1010A0, x := [(1, 5), (2, 2)] } 0x86604002 (.continued none)
    (fun t => t.x 3 == 2) = true := by decide +kernel

/-- 95_test_vectors AR-16. -/
theorem test_subxcc : does { psr := 0x1010A0 } 0x86E04002 (.continued none)
    (fun t => t.x 3 == 0xFFFFFFFF && t.psr == 0x9010A0) = true := by decide +kernel

/-- 95_test_vectors AR-17. -/
theorem test_subxcc_2 : does { psr := 0x1010A0, x := [(1, 0x80000000)] } 0x86E04002 (.continued none)
    (fun t => t.x 3 == 0x7FFFFFFF && t.psr == 0x2010A0) = true := by decide +kernel

/-- 95_test_vectors LG-08. -/
theorem test_and : does { x := [(1, 0xFF00FF00), (2, 0xFF00FF0)] } 0x86084002 (.continued none)
    (fun t => t.x 3 == 0xF000F00) = true := by decide +kernel

/-- 95_test_vectors LG-01. -/
theorem test_andcc : does { psr := 0xF010A0, x := [(1, 0xF0F0F0F0), (2, 0xF0F0F0F)] } 0x86884002 (.continued none)
    (fun t => t.x 3 == 0 && t.psr == 0x4010A0) = true := by decide +kernel

/-- 95_test_vectors LG-09. -/
theorem test_andn : does { x := [(1, 0xFF00FF00), (2, 0xFF00FF0)] } 0x86284002 (.continued none)
    (fun t => t.x 3 == 0xF000F000) = true := by decide +kernel

/-- 95_test_vectors LG-06. -/
theorem test_andncc : does { x := [(1, 0x800000FF)] } 0x86A860FF (.continued none)
    (fun t => t.x 3 == 0x80000000 && t.psr == 0x8010A0) = true := by decide +kernel

/-- 95_test_vectors LG-10. -/
theorem test_or : does { x := [(1, 0xFF00FF00), (2, 0xFF00FF0)] } 0x86104002 (.continued none)
    (fun t => t.x 3 == 0xFFF0FFF0) = true := by decide +kernel

/-- 95_test_vectors LG-02. -/
theorem test_orcc : does { x := [(1, 0x80000000), (2, 1)] } 0x86904002 (.continued none)
    (fun t => t.x 3 == 0x80000001 && t.psr == 0x8010A0) = true := by decide +kernel

/-- 95_test_vectors LG-11. -/
theorem test_orn : does { x := [(1, 0xFF00FF00), (2, 0xFF00FF0)] } 0x86304002 (.continued none)
    (fun t => t.x 3 == 0xFF0FFF0F) = true := by decide +kernel

/-- 95_test_vectors LG-03. -/
theorem test_orncc : does { x := [(2, 0xFFFFFFFF)] } 0x86B04002 (.continued none)
    (fun t => t.x 3 == 0 && t.psr == 0x4010A0) = true := by decide +kernel

/-- 95_test_vectors LG-12. -/
theorem test_xor : does { x := [(1, 0xFF00FF00), (2, 0xFF00FF0)] } 0x86184002 (.continued none)
    (fun t => t.x 3 == 0xF0F0F0F0) = true := by decide +kernel

/-- 95_test_vectors LG-04. -/
theorem test_xorcc : does { psr := 0xF010A0, x := [(1, 0x55), (2, 0x55)] } 0x80984002 (.continued none)
    (fun t => t.psr == 0x4010A0) = true := by decide +kernel

/-- 95_test_vectors LG-13. -/
theorem test_xnor : does { x := [(1, 0xFF00FF00), (2, 0xFF00FF0)] } 0x86384002 (.continued none)
    (fun t => t.x 3 == 0xF0F0F0F) = true := by decide +kernel

/-- 95_test_vectors LG-05. -/
theorem test_xnorcc : does { x := [(1, 0x55), (2, 0x55)] } 0x86B84002 (.continued none)
    (fun t => t.x 3 == 0xFFFFFFFF && t.psr == 0x8010A0) = true := by decide +kernel

/-- 95_test_vectors SH-02. -/
theorem test_sll : does { x := [(1, 3), (2, 0x21)] } 0x87284002 (.continued none)
    (fun t => t.x 3 == 6) = true := by decide +kernel

/-- 95_test_vectors SH-03. -/
theorem test_srl : does { x := [(1, 0x80000000)] } 0x8730601F (.continued none)
    (fun t => t.x 3 == 1) = true := by decide +kernel

/-- 95_test_vectors SH-04. -/
theorem test_sra : does { x := [(1, 0x80000000)] } 0x8738601F (.continued none)
    (fun t => t.x 3 == 0xFFFFFFFF) = true := by decide +kernel

/-- 95_test_vectors SE-01. -/
theorem test_sethi : does {} 0x03048D15 (.continued none) (fun t => t.x 1 == 0x12345400) = true := by decide +kernel

/-- 95_test_vectors SE-04. -/
theorem test_nop : does { psr := 0xF010A0 } 0x01000000 (.continued none) (fun _ => true) = true := by decide +kernel

/-- 95_test_vectors TG-01. -/
theorem test_taddcc : does { x := [(1, 4), (2, 8)] } 0x87004002 (.continued none)
    (fun t => t.x 3 == 0xC) = true := by decide +kernel

/-- 95_test_vectors TG-04. -/
theorem test_taddcctv : does { x := [(1, 4), (2, 8)] } 0x87104002 (.continued none)
    (fun t => t.x 3 == 0xC) = true := by decide +kernel

/-- 95_test_vectors TG-05. -/
theorem test_taddcctv_2 : does { x := [(1, 4), (2, 9)] } 0x87104002 (.continued (some 0x0A))
    (fun t => t.x 17 == 0x1000 && t.x 18 == 0x1004 && t.pc == 0x40A0 && t.npc == 0x40A4 && t.psr == 0x10C7 &&
      t.tbr == 0x40A0) = true := by decide +kernel

/-- 95_test_vectors TG-06. -/
theorem test_tsubcc : does { x := [(1, 8), (2, 4)] } 0x87084002 (.continued none)
    (fun t => t.x 3 == 4) = true := by decide +kernel

/-- 95_test_vectors TG-07. -/
theorem test_tsubcctv : does { x := [(1, 9), (2, 4)] } 0x87184002 (.continued (some 0x0A))
    (fun t => t.x 17 == 0x1000 && t.x 18 == 0x1004 && t.pc == 0x40A0 && t.npc == 0x40A4 && t.psr == 0x10C7 &&
      t.tbr == 0x40A0) = true := by decide +kernel

/-- 95_test_vectors TG-08. -/
theorem test_tsubcctv_2 : does { psr := 0x1080, x := [(1, 9), (2, 4)] } 0x87184002 (.errorMode 0x0A)
    (fun t => t.pc == 0x1000 && t.npc == 0x1004 && t.tbr == 0x40A0 && t.errorMode) = true := by decide +kernel

/-- 95_test_vectors MU-01. -/
theorem test_mulscc : does { y := 2, x := [(1, 3), (2, 0x10)] } 0x87204002 (.continued none)
    (fun t => t.x 3 == 1 && t.y == 0x80000001) = true := by decide +kernel

/-- 95_test_vectors MU-03. -/
theorem test_umul : does { x := [(1, 0xFFFFFFFF), (2, 2)] } 0x86504002 (.continued none)
    (fun t => t.x 3 == 0xFFFFFFFE && t.y == 1) = true := by decide +kernel

/-- 95_test_vectors MU-04. -/
theorem test_smul : does { x := [(1, 0xFFFFFFFF), (2, 2)] } 0x86584002 (.continued none)
    (fun t => t.x 3 == 0xFFFFFFFE && t.y == 0xFFFFFFFF) = true := by decide +kernel

/-- 95_test_vectors MU-05. -/
theorem test_umulcc : does { psr := 0xF010A0, x := [(1, 0x10000), (2, 0x10000)] } 0x86D04002 (.continued none)
    (fun t => t.x 3 == 0 && t.psr == 0x4010A0 && t.y == 1) = true := by decide +kernel

/-- 95_test_vectors MU-06. -/
theorem test_smulcc : does { x := [(1, 0x80000000)] } 0x86D87FFF (.continued none)
    (fun t => t.x 3 == 0x80000000 && t.psr == 0x8010A0) = true := by decide +kernel

/-- 95_test_vectors DV-02. -/
theorem test_udiv : does { y := 1, x := [(2, 2)] } 0x86704002 (.continued none)
    (fun t => t.x 3 == 0x80000000) = true := by decide +kernel

/-- 95_test_vectors DV-03. -/
theorem test_udiv_2 : does { x := [(1, 0x64)] } 0x86704000 (.continued (some 0x2A))
    (fun t => t.x 17 == 0x1000 && t.x 18 == 0x1004 && t.pc == 0x42A0 && t.npc == 0x42A4 && t.psr == 0x10C7 &&
      t.tbr == 0x42A0) = true := by decide +kernel

/-- 95_test_vectors DV-08. -/
theorem test_sdiv : does { y := 0, x := [(1, 0xFFFFFF9C), (2, 7)] } 0x86784002 (.continued none)
    (fun t => t.x 3 == 0x24924916) = true := by decide +kernel

/-- 95_test_vectors DV-05. -/
theorem test_udivcc : does { y := 1, x := [(2, 1)] } 0x86F04002 (.continued none)
    (fun t => t.x 3 == 0xFFFFFFFF && t.psr == 0xA010A0) = true := by decide +kernel

/-- 95_test_vectors DV-10. -/
theorem test_sdivcc : does { y := 0xFFFFFFFF } 0x86F86001 (.continued none)
    (fun t => t.x 3 == 0x80000000 && t.psr == 0xA010A0) = true := by decide +kernel

/-- 95_test_vectors DV-12. -/
theorem test_sdivcc_2 : does { y := 0xFFFFFFFF, x := [(1, 0x80000000), (2, 0xFFFFFFFF)] } 0x86F84002 (.continued none)
    (fun t => t.x 3 == 0x7FFFFFFF && t.psr == 0x2010A0) = true := by decide +kernel

/-- 95_test_vectors CT-02. -/
theorem test_ba : does {} 0x30800004 (.continued none) (fun t => t.npc == 0x1010) = true := by decide +kernel

/-- 95_test_vectors CT-07. -/
theorem test_ba_2 : does { pc := 0, npc := 4 } 0x10BFFFFF (.continued none)
    (fun t => t.pc == 4 && t.npc == 0xFFFFFFFC) = true := by decide +kernel

/-- 95_test_vectors CT-03. -/
theorem test_bn : does {} 0x20800004 (.continued none)
    (fun t => t.pc == 0x1008 && t.npc == 0x100C) = true := by decide +kernel

/-- 95_test_vectors CT-05. -/
theorem test_bne : does {} 0x32800004 (.continued none) (fun t => t.npc == 0x1010) = true := by decide +kernel

/-- 95_test_vectors CT-04. -/
theorem test_be : does {} 0x22800004 (.continued none)
    (fun t => t.pc == 0x1008 && t.npc == 0x100C) = true := by decide +kernel

/-- 95_test_vectors CT-08. -/
theorem test_fbe : does { psr := 0xA0 } 0x13800004 (.continued (some 0x04))
    (fun t => t.x 17 == 0x1000 && t.x 18 == 0x1004 && t.pc == 0x4040 && t.npc == 0x4044 && t.psr == 0xC7 &&
      t.tbr == 0x4040) = true := by decide +kernel

/-- 95_test_vectors CT-09. -/
theorem test_call : does {} 0x40000400 (.continued none)
    (fun t => t.x 15 == 0x1000 && t.npc == 0x2000) = true := by decide +kernel

/-- 95_test_vectors CT-14. -/
theorem test_jmpl : does { pc := 0x2000, npc := 0x2004, x := [(15, 0x1000)] } 0x81C3E008 (.continued none)
    (fun t => t.pc == 0x2004) = true := by decide +kernel

/-- 95_test_vectors CT-13. -/
theorem test_jmpl_2 : does { x := [(1, 0x2002)] } 0x81C06000 (.continued (some 0x07))
    (fun t => t.x 17 == 0x1000 && t.x 18 == 0x1004 && t.pc == 0x4070 && t.npc == 0x4074 && t.psr == 0x10C7 &&
      t.tbr == 0x4070) = true := by decide +kernel

/-- 95_test_vectors CT-15. -/
theorem test_rett : does { psr := 0x87, pc := 0x104, npc := 0x2008, x := [(18, 0x200C)] } 0x81CC8000 (.continued none)
    (fun t => t.pc == 0x2008 && t.npc == 0x200C && t.psr == 0x20) = true := by decide +kernel

/-- 95_test_vectors CT-19. -/
theorem test_rett_2 : does { psr := 0x87, wim := 1, pc := 0x104, npc := 0x2008, x := [(18, 0x200C)] }
    0x81CC8000 (.errorMode 0x06)
    (fun t => t.pc == 0x104 && t.npc == 0x2008 && t.tbr == 0x4060 && t.errorMode) = true := by decide +kernel

/-- 95_test_vectors SE-06. -/
theorem test_unimp : does {} 0x00000123 (.illegalInstruction 0x00001000 0x00000123)
    (fun _ => true) = true := by decide +kernel

/-- 95_test_vectors WN-01. -/
theorem test_save : does { x := [(14, 0x10000)] } 0x9DE3BFA0 (.continued none)
    (fun t => t.x 14 == 0xFFA0 && t.psr == 0x10A7) = true := by decide +kernel

/-- 95_test_vectors WN-03. -/
theorem test_save_2 : does { wim := 0x80 } 0x81E02000 (.continued (some 0x05))
    (fun t => t.x 17 == 0x1000 && t.x 18 == 0x1004 && t.pc == 0x4050 && t.npc == 0x4054 && t.psr == 0x10C7 &&
      t.tbr == 0x4050) = true := by decide +kernel

/-- 95_test_vectors WN-05. -/
theorem test_restore : does { psr := 0x10A7, x := [(1, 3), (2, 4)] } 0x87E84002 (.continued none)
    (fun t => t.x 3 == 7 && t.psr == 0x10A0) = true := by decide +kernel

/-- 95_test_vectors WN-07. -/
theorem test_restore_2 : does { wim := 2 } 0x81E82000 (.continued (some 0x06))
    (fun t => t.x 17 == 0x1000 && t.x 18 == 0x1004 && t.pc == 0x4060 && t.npc == 0x4064 && t.psr == 0x10C7 &&
      t.tbr == 0x4060) = true := by decide +kernel

/-- 95_test_vectors SR-01. -/
theorem test_rdy : does { y := 0xCAFEF00D } 0x87400000 (.continued none)
    (fun t => t.x 3 == 0xCAFEF00D) = true := by decide +kernel

/-- 95_test_vectors SR-03. -/
theorem test_rdpsr : does { psr := 0xF010A0 } 0x87480000 (.continued none)
    (fun t => t.x 3 == 0xF010A0) = true := by decide +kernel

/-- 95_test_vectors SR-04. -/
theorem test_rdpsr_2 : does { psr := 0x20 } 0x87480000 (.continued (some 0x03))
    (fun t => t.x 17 == 0x1000 && t.x 18 == 0x1004 && t.pc == 0x4030 && t.npc == 0x4034 && t.psr == 0x87 &&
      t.tbr == 0x4030) = true := by decide +kernel

/-- 95_test_vectors SR-05. -/
theorem test_rdwim : does { wim := 0x81 } 0x87500000 (.continued none)
    (fun t => t.x 3 == 0x81) = true := by decide +kernel

/-- 95_test_vectors SR-06. -/
theorem test_rdtbr : does { tbr := 0x40A0 } 0x87580000 (.continued none)
    (fun t => t.x 3 == 0x40A0) = true := by decide +kernel

/-- 95_test_vectors SR-02. -/
theorem test_wry : does { x := [(1, 0xFF00FF00), (2, 0xF0F0F0F)] } 0x81804002 (.continued none)
    (fun t => t.y == 0xF00FF00F) = true := by decide +kernel

/-- 95_test_vectors SR-07. -/
theorem test_wrpsr : does { psr := 0xA0, x := [(1, 0x1000), (2, 0xA5)] } 0x81884002 (.continued none)
    (fun t => t.psr == 0x10A5) = true := by decide +kernel

/-- 95_test_vectors SR-09. -/
theorem test_wrpsr_2 : does { x := [(1, 0x10A8)] } 0x81886000 (.illegalInstruction 0x00001000 0x81886000)
    (fun _ => true) = true := by decide +kernel

/-- 95_test_vectors SR-11. -/
theorem test_wrwim : does { x := [(1, 0xFFFFFFFF)] } 0x81906000 (.continued none)
    (fun t => t.wim == 0xFF) = true := by decide +kernel

/-- 95_test_vectors SR-12. -/
theorem test_wrtbr : does { tbr := 0x40A0, x := [(1, 0x12345678)] } 0x81986000 (.continued none)
    (fun t => t.tbr == 0x123450A0) = true := by decide +kernel

/-- 95_test_vectors SR-13. -/
theorem test_stbar : does {} 0x8143C000 (.continued none) (fun _ => true) = true := by decide +kernel

/-- 95_test_vectors SR-14. -/
theorem test_flush : does { x := [(1, 0x2000)] } 0x81D86000 (.continued none)
    (fun _ => true) = true := by decide +kernel

/-- 95_test_vectors LS-03. -/
theorem test_ldsb : does { x := [(1, 0x2000)], mem := integerImage } 0xC6486001 (.continued none)
    (fun t => t.x 3 == 0xFFFFFF81) = true := by decide +kernel

/-- 95_test_vectors LS-06. -/
theorem test_ldsh : does { x := [(1, 0x2000)], mem := integerImage } 0xC6506002 (.continued none)
    (fun t => t.x 3 == 0xFFFFA2B3) = true := by decide +kernel

/-- 95_test_vectors LS-07. -/
theorem test_ldsh_2 : does { x := [(1, 0x2000)], mem := integerImage } 0xC6506001 (.continued (some 0x07))
    (fun t => t.x 17 == 0x1000 && t.x 18 == 0x1004 && t.pc == 0x4070 && t.npc == 0x4074 && t.psr == 0x10C7 &&
      t.tbr == 0x4070) = true := by decide +kernel

/-- 95_test_vectors LS-02. -/
theorem test_ldub : does { x := [(1, 0x2000)], mem := integerImage } 0xC6086001 (.continued none)
    (fun t => t.x 3 == 0x81) = true := by decide +kernel

/-- 95_test_vectors LS-05. -/
theorem test_lduh : does { x := [(1, 0x2000)], mem := integerImage } 0xC6106002 (.continued none)
    (fun t => t.x 3 == 0xA2B3) = true := by decide +kernel

/-- 95_test_vectors LS-01. -/
theorem test_ld : does { x := [(1, 0x2000)], mem := integerImage } 0xC6006000 (.continued none)
    (fun t => t.x 3 == 0x8081A2B3) = true := by decide +kernel

/-- 95_test_vectors LS-12. -/
theorem test_ld_2 : does { x := [(1, 0x2000)], mem := integerImage } 0xC0006000 (.continued none)
    (fun _ => true) = true := by decide +kernel

/-- 95_test_vectors LS-09. -/
theorem test_ldd : does { x := [(1, 0x2000)], mem := integerImage } 0xC4186000 (.continued none)
    (fun t => t.x 2 == 0x8081A2B3 && t.x 3 == 0x1020304) = true := by decide +kernel

/-- 95_test_vectors LS-11. -/
theorem test_ldd_2 : does { x := [(1, 0x2000)], mem := integerImage }
    0xC6186000 (.illegalInstruction 0x00001000 0xC6186000)
    (fun _ => true) = true := by decide +kernel

/-- 95_test_vectors LS-15. -/
theorem test_stb : does { x := [(1, 0x2000), (3, 0x11223344)], mem := integerImage } 0xC6286003 (.continued none)
    (fun t => t.mem.read4 0x2000 == 0x8081A244) = true := by decide +kernel

/-- 95_test_vectors LS-16. -/
theorem test_sth : does { x := [(1, 0x2000), (3, 0x11223344)], mem := integerImage } 0xC6306006 (.continued none)
    (fun t => t.mem.read4 0x2004 == 0x1023344) = true := by decide +kernel

/-- 95_test_vectors LS-14. -/
theorem test_st : does { x := [(1, 0x2000), (3, 0x11223344)], mem := integerImage } 0xC6206000 (.continued none)
    (fun t => t.mem.read4 0x2000 == 0x11223344) = true := by decide +kernel

/-- 95_test_vectors LS-20. -/
theorem test_st_2 : does { x := [(1, 0x400000), (3, 0x5A)] } 0xC6206000 (.continued none)
    (fun t => t.mem.read4 0x400000 == 0x5A) = true := by decide +kernel

/-- 95_test_vectors LS-18. -/
theorem test_std : does { x := [(1, 0x2000), (2, 0x55667788), (3, 0x11223344)], mem := integerImage }
    0xC4386000 (.continued none)
    (fun t => t.mem.read4 0x2000 == 0x55667788 && t.mem.read4 0x2004 == 0x11223344) = true := by decide +kernel

/-- 95_test_vectors LS-21. -/
theorem test_ldstub : does { x := [(1, 0x2000)], mem := integerImage } 0xC6686001 (.continued none)
    (fun t => t.x 3 == 0x81 && t.mem.read4 0x2000 == 0x80FFA2B3) = true := by decide +kernel

/-- 95_test_vectors LS-23. -/
theorem test_swap : does { x := [(1, 0x2000), (3, 0x11223344)], mem := integerImage } 0xC6786000 (.continued none)
    (fun t => t.x 3 == 0x8081A2B3 && t.mem.read4 0x2000 == 0x11223344) = true := by decide +kernel

/-- 95_test_vectors LS-24. -/
theorem test_swap_2 : does { x := [(1, 0x2000), (3, 0x11223344)], mem := integerImage }
    0xC6786002 (.continued (some 0x07))
    (fun t => t.x 17 == 0x1000 && t.x 18 == 0x1004 && t.pc == 0x4070 && t.npc == 0x4074 && t.psr == 0x10C7 &&
      t.tbr == 0x4070) = true := by decide +kernel

/-- 95_test_vectors FL-01. -/
theorem test_ldf : does { x := [(1, 0x2000)], mem := floatImage } 0xC7006000 (.continued none)
    (fun t => t.fr 3 == 0x3F800000) = true := by decide +kernel

/-- 95_test_vectors FL-04. -/
theorem test_ldf_2 : does { psr := 0xA0, x := [(1, 0x2000)], mem := floatImage } 0xC7006000 (.continued (some 0x04))
    (fun t => t.x 17 == 0x1000 && t.x 18 == 0x1004 && t.pc == 0x4040 && t.npc == 0x4044 && t.psr == 0xC7 &&
      t.tbr == 0x4040) = true := by decide +kernel

/-- 95_test_vectors FL-02. -/
theorem test_lddf : does { x := [(1, 0x2000)], mem := floatImage } 0xC9186000 (.continued none)
    (fun t => t.fr 4 == 0x3F800000 && t.fr 5 == 0x40000000) = true := by decide +kernel

/-- 95_test_vectors FL-03. -/
theorem test_lddf_2 : does { x := [(1, 0x2000)], mem := floatImage }
    0xCB186000 (.illegalInstruction 0x00001000 0xCB186000)
    (fun _ => true) = true := by decide +kernel

/-- 95_test_vectors FL-09. -/
theorem test_ldfsr : does { x := [(1, 0x2000)], mem := [(0x2000, [0xC0, 0x00, 0xB0, 0x00])] }
    0xC1086000 (.continued none)
    (fun t => t.fsr == 0xC0003000) = true := by decide +kernel

/-- 95_test_vectors FL-07. -/
theorem test_stf : does { x := [(1, 0x2000)], f := [(3, 0x40490FDB)], mem := floatImage } 0xC7206008 (.continued none)
    (fun t => t.mem.read4 0x2008 == 0x40490FDB) = true := by decide +kernel

/-- 95_test_vectors FL-08. -/
theorem test_stdf : does { x := [(1, 0x2000)], f := [(4, 0x400921FB), (5, 0x54442D18)], mem := floatImage }
    0xC9386008 (.continued none)
    (fun t => t.mem.read4 0x2008 == 0x400921FB && t.mem.read4 0x200C == 0x54442D18) = true := by decide +kernel

/-- 95_test_vectors FL-11. -/
theorem test_stfsr : does { fsr := 0x4F1C31E7, x := [(1, 0x2000)] } 0xC1286008 (.continued none)
    (fun t => t.mem.read4 0x2008 == 0x4F1C31E7) = true := by decide +kernel

/-- 95_test_vectors FP-33. -/
theorem test_fmovs : does { fsr := 0x3FF, f := [(2, 0x7F800001)] } 0x87A00022 (.continued none)
    (fun t => t.fr 3 == 0x7F800001 && t.fsr == 0x3E0) = true := by decide +kernel

/-- 45_floating_point R911, the example. -/
theorem test_fnegs : does { f := [(2, 0x3FC00000)] } 0x87A000A2 (.continued none)
    (fun t => t.fr 3 == 0xBFC00000) = true := by decide +kernel

/-- 45_floating_point R912, the example. -/
theorem test_fabss : does { f := [(2, 0xBFC00000)] } 0x87A00122 (.continued none)
    (fun t => t.fr 3 == 0x3FC00000) = true := by decide +kernel

/-- 95_test_vectors FP-11. -/
theorem test_fsqrts : does { f := [(2, 0xBF800000)] } 0x87A00522 (.continued none)
    (fun t => t.fr 3 == 0x7FFFFFFF && t.fsr == 0x210) = true := by decide +kernel

/-- 95_test_vectors FP-45. -/
theorem test_fsqrtd : does { f := [(2, 0x40000000)] } 0x89A00542 (.continued none)
    (fun t => t.fr 4 == 0x3FF6A09E && t.fr 5 == 0x667F3BCD && t.fsr == 0x21) = true := by decide +kernel

/-- 95_test_vectors FP-01. -/
theorem test_fadds : does { f := [(1, 0x3F800000), (2, 0x40000000)] } 0x87A04822 (.continued none)
    (fun t => t.fr 3 == 0x40400000) = true := by decide +kernel

/-- 95_test_vectors FP-32. -/
theorem test_fadds_2 : does { psr := 0xA0, f := [(1, 0x3F800000)] } 0x87A04822 (.continued (some 0x04))
    (fun t => t.x 17 == 0x1000 && t.x 18 == 0x1004 && t.pc == 0x4040 && t.npc == 0x4044 && t.psr == 0xC7 &&
      t.tbr == 0x4040) = true := by decide +kernel

/-- 45_floating_point R916, the example. -/
theorem test_faddd : does { f := [(0, 0x3FF80000), (2, 0x40040000)] } 0x89A00842 (.continued none)
    (fun t => t.fr 4 == 0x40100000 && t.fr 5 == 0) = true := by decide +kernel

/-- 95_test_vectors FP-12d. -/
theorem test_fsubs : does { fsr := 0xC0000000, f := [(1, 0x3F800000), (2, 0x3F800000)] } 0x87A048A2 (.continued none)
    (fun t => t.fr 3 == 0x80000000) = true := by decide +kernel

/-- 45_floating_point R918, the example. -/
theorem test_fsubd : does { f := [(0, 0x40100000), (2, 0x40040000)] } 0x89A008C2 (.continued none)
    (fun t => t.fr 4 == 0x3FF80000 && t.fr 5 == 0) = true := by decide +kernel

/-- 95_test_vectors FP-06. -/
theorem test_fmuls : does { f := [(1, 0x7F7FFFFF), (2, 0x40000000)] } 0x87A04922 (.continued none)
    (fun t => t.fr 3 == 0x7F800000 && t.fsr == 0x129) = true := by decide +kernel

/-- 95_test_vectors FP-41. -/
theorem test_fmuls_2 : does { fsr := 0x40000000, f := [(1, 0x7F7FFFFF), (2, 0x40000000)] }
    0x87A04922 (.continued none)
    (fun t => t.fr 3 == 0x7F7FFFFF && t.fsr == 0x40000129) = true := by decide +kernel

/-- 95_test_vectors FP-46. -/
theorem test_fmuld : does { f := [(0, 0x3FF80000), (2, 0x40020000)] } 0x89A00942 (.continued none)
    (fun t => t.fr 4 == 0x400B0000) = true := by decide +kernel

/-- 95_test_vectors FP-23. -/
theorem test_fdivs : does { fsr := 0x1000000, f := [(1, 0x3F800000)] } 0x87A049A2 (.continued (some 0x08))
    (fun t => t.x 17 == 0x1000 && t.x 18 == 0x1004 && t.pc == 0x4080 && t.npc == 0x4084 && t.psr == 0x10C7 &&
      t.tbr == 0x4080 && t.fsr == 0x1008002) = true := by decide +kernel

/-- 95_test_vectors FP-39. -/
theorem test_fdivs_2 : does { fsr := 0x80000000, f := [(1, 0xBF800000), (2, 0x40400000)] }
    0x87A049A2 (.continued none)
    (fun t => t.fr 3 == 0xBEAAAAAA && t.fsr == 0x80000021) = true := by decide +kernel

/-- 45_floating_point R922, the example. -/
theorem test_fdivd : does { f := [(0, 0x40180000), (2, 0x40100000)] } 0x89A009C2 (.continued none)
    (fun t => t.fr 4 == 0x3FF80000 && t.fr 5 == 0) = true := by decide +kernel

/-- 95_test_vectors FP-36. -/
theorem test_fsmuld : does { f := [(1, 0x7F7FFFFF), (2, 0x7F7FFFFF)] } 0x89A04D22 (.continued none)
    (fun t => t.fr 4 == 0x4FEFFFFF && t.fr 5 == 0xC0000020) = true := by decide +kernel

/-- 95_test_vectors FP-43. -/
theorem test_fitos : does { fsr := 0x40000000, f := [(2, 0x7FFFFFFF)] } 0x87A01882 (.continued none)
    (fun t => t.fr 3 == 0x4EFFFFFF && t.fsr == 0x40000021) = true := by decide +kernel

/-- 95_test_vectors FP-34. -/
theorem test_fdtos : does { f := [(2, 0x47EFFFFF), (3, 0xF0000000)] } 0x87A018C2 (.continued none)
    (fun t => t.fr 3 == 0x7F800000 && t.fsr == 0x129) = true := by decide +kernel

/-- 45_floating_point R926, the example. -/
theorem test_fitod : does { f := [(2, 0xFFFFFFFF)] } 0x89A01902 (.continued none)
    (fun t => t.fr 4 == 0xBFF00000 && t.fr 5 == 0) = true := by decide +kernel

/-- 45_floating_point R927, the example. -/
theorem test_fstod : does { f := [(2, 0x3FC00000)] } 0x89A01922 (.continued none)
    (fun t => t.fr 4 == 0x3FF80000 && t.fr 5 == 0) = true := by decide +kernel

/-- 95_test_vectors FP-14. -/
theorem test_fstoi : does { f := [(2, 0x4F000000)] } 0x87A01A22 (.continued none)
    (fun t => t.fr 3 == 0x7FFFFFFF && t.fsr == 0x210) = true := by decide +kernel

/-- 95_test_vectors FP-35. -/
theorem test_fdtoi : does { f := [(2, 0xC1E00000), (3, 0x80000)] } 0x87A01A42 (.continued none)
    (fun t => t.fr 3 == 0x80000000 && t.fsr == 0x21) = true := by decide +kernel

/-- 95_test_vectors FP-19. -/
theorem test_fcmps : does { f := [(1, 0x7F800001), (2, 0x3F800000)] } 0x81A84A22 (.continued none)
    (fun t => t.fsr == 0x3210) = true := by decide +kernel

/-- 95_test_vectors FP-21. -/
theorem test_fcmps_2 : does { f := [(1, 0x7F800000), (2, 0x7F7FFFFF)] } 0x81A84A22 (.continued none)
    (fun t => t.fsr == 0x2000) = true := by decide +kernel

/-- 45_floating_point R931, the example. -/
theorem test_fcmpd : does { f := [(0, 0x40040000), (2, 0x3FF80000)] } 0x81A80A42 (.continued none)
    (fun t => t.fsr == 0x2000) = true := by decide +kernel

/-- 95_test_vectors FP-22. -/
theorem test_fcmpes : does { f := [(1, 0x7FC00000), (2, 0x3F800000)] } 0x81A84AA2 (.continued none)
    (fun t => t.fsr == 0x3210) = true := by decide +kernel

/-- 45_floating_point R933, the example. -/
theorem test_fcmped : does { f := [(0, 0x3FF80000), (2, 0x3FF80000)] } 0x81A80AC2 (.continued none)
    (fun t => t.fsr == 0) = true := by decide +kernel

/-- 95_test_vectors FP-27. -/
theorem test_fpop1Unimplemented : does {} 0x91A00864 (.continued (some 0x08))
    (fun t => t.x 17 == 0x1000 && t.x 18 == 0x1004 && t.pc == 0x4080 && t.npc == 0x4084 && t.psr == 0x10C7 &&
      t.tbr == 0x4080 && t.fsr == 0x18000) = true := by decide +kernel

/-- 95_test_vectors FP-28. -/
theorem test_fpop2Unimplemented : does {} 0x81A80A64 (.continued (some 0x08))
    (fun t => t.x 17 == 0x1000 && t.x 18 == 0x1004 && t.pc == 0x4080 && t.npc == 0x4084 && t.psr == 0x10C7 &&
      t.tbr == 0x4080 && t.fsr == 0x18000) = true := by decide +kernel

/-! ### For each statement with hypotheses, a state and operands that meet them -/

/-- The state an answer gives, if it gives one. -/
def nextOf (r : Result) : Option State :=
  match r with
  | .next t => some t
  | _ => none

/-- The fault an answer stops with, if it stops. -/
def faultOf (r : Result) : Option Fault :=
  match r with
  | .fault f => some f
  | _ => none

/-- A setup with a word to run. -/
def Setup.on (u : Setup) (w : Word) : State := u.state.withFetchWord 32 w.toNat

/-- The default state in user mode. -/
def user : Setup := { psr := 0x1020 }

/-- The default state with no page and no table left to allocate. -/
def noTables : State := { Setup.state {} with cfg := { Config.spec with l2Capacity := some 0 } }

/-- The default state with a table for every address below 0x400000 and no page left to allocate. -/
def noPages : State :=
  { Setup.state {} with
    cfg := { Config.spec with pageCapacity := some 0 }
    mem := ⟨[], [0], []⟩ }

/-- The default state with a watchpoint on 0x2000 and an execution breakpoint at 0x1004, about to store to 0x2000. -/
def watched : State :=
  { Setup.on { x := [(1, 0x2000), (3, 7)] } 0xC6206000 with
    bps := ⟨[⟨1, 0x2000, .data⟩, ⟨2, 0x1004, .execution⟩], 3⟩ }

/-- The default state with an execution breakpoint at pc. -/
def broken : State := { Setup.on {} 0x01000000 with bps := ⟨[⟨5, 0x1000, .execution⟩], 6⟩ }

/-- The default state about to store to an address whose table cannot be made. -/
def fullMemory : State :=
  { Setup.on { x := [(1, 0x80000000)] } 0xC0206000 with cfg := { Config.spec with l2Capacity := some 1 } }

/-- Shaped alone: PlainArithmetic, AddSubtractCc, LogicCc, Multiply, StateRegisterReads; in the first window and in the
last one. -/
theorem witness_shaped : (Setup.state {}).Shaped ∧ (Setup.state { psr := 0x10A7 }).Shaped := by decide +kernel

/-- DecodeEncode: the SETHI next to NOP, and the word of NOP. -/
theorem witness_DecodeEncode : (Instr.sethi 0 1).wellFormed = true ∧ decode 0x01000000 = .ok .nop := ⟨rfl, rfl⟩

/-- StepRunsTheDecodedInstruction: an instruction that stops, and the three kinds of answer. -/
theorem witness_StepRunsTheDecodedInstruction :
    (∀ p ∈ [(Setup.on {} 0xC6186000, Instr.ldd 3 1 (.imm 0)), (Setup.on {} 0x01000000, .nop),
        (watched, .st 3 1 (.imm 0)), (Setup.on { psr := 0 } 0x85A00821, .fadds 2 0 1)],
      p.1.Live ∧ p.1.Unbroken ∧ decode p.1.fetchWord = .ok p.2 ∧ p.2.mnemonic ∉ p.1.cfg.notImplemented) ∧
    (∀ n, Instr.ldd 3 1 (.imm 0) ≠ .unimp n ∧ Instr.nop ≠ .unimp n ∧ Instr.st 3 1 (.imm 0) ≠ .unimp n ∧
      Instr.fadds 2 0 1 ≠ .unimp n) ∧
    faultOf (exec (.ldd 3 1 (.imm 0)) (Setup.on {} 0xC6186000)) = some (.illegalInstruction 0x1000 0xC6186000) ∧
    ((nextOf (exec .nop (Setup.on {} 0x01000000))).any fun t =>
      t.report == .continued none && watchHit t.bps (Setup.on {} 0x01000000).mem t.mem t.writes == none) = true ∧
    ((nextOf (exec (.st 3 1 (.imm 0)) watched)).any fun t =>
      t.report == .continued none && watchHit t.bps watched.mem t.mem t.writes == some (.watchpoint 1 0x2000 0 7)) = true ∧
    ((nextOf (exec (.fadds 2 0 1) (Setup.on { psr := 0 } 0x85A00821))).any fun t =>
      t.report == .errorMode 4) = true := by
  refine ⟨?_, by simp, ?_⟩ <;> decide +kernel

/-- The default state about to execute a word, with rows of the opcode table left out. -/
def without (rows : List String) (w : Word) : State :=
  { Setup.on {} w with cfg := { Config.spec with notImplemented := rows } }

/-- StepGates: error mode, a window that does not exist, the unrecognised words, and a breakpoint. -/
theorem witness_StepGates :
    ({ Setup.state {} with errorMode := true } : State).errorMode = true ∧
    (Setup.state { psr := 8 }).errorMode = false ∧ (Setup.state { psr := 8 }).cfg.nwindows ≤ (Setup.state { psr := 8 }).window ∧
    (Setup.on {} 0x00400000).Live ∧ matchRow opcodeTable (Setup.on {} 0x00400000).fetchWord = none ∧
    decode (Setup.on {} 0x00000123).fetchWord = .ok (.unimp 0x123) ∧
    broken.Live ∧ decode broken.fetchWord = .ok .nop ∧ Instr.nop.mnemonic ∉ broken.cfg.notImplemented ∧
    broken.bps.entries.find? (fun b => b.kind == .execution && b.addr == broken.fetchAddr) =
      some ⟨5, 0x1000, .execution⟩ := by
  decide +kernel

/-- StepGates: live states whose word is a row that is not implemented: ADD, and NOP with both rows it matches left out. With
the row of NOP alone left out, or that of SETHI alone, its word is executed, and any other SETHI is not. -/
theorem witness_StepGates_notImplemented :
    (without ["ADD"] 0x86004002).Live ∧ decode (without ["ADD"] 0x86004002).fetchWord = .ok (.add 3 1 (.reg 2)) ∧
    (Instr.add 3 1 (.reg 2)).mnemonic ∈ (without ["ADD"] 0x86004002).cfg.notImplemented ∧
    stepOutcome (without ["ADD"] 0x86004002) =
      .ok (.illegalInstruction 0x1000 0x86004002, without ["ADD"] 0x86004002) ∧
    (without ["NOP", "SETHI"] 0x01000000).Live ∧ decode (without ["NOP", "SETHI"] 0x01000000).fetchWord = .ok .nop ∧
    Instr.nop.mnemonic ∈ (without ["NOP", "SETHI"] 0x01000000).cfg.notImplemented ∧
    "SETHI" ∈ (without ["NOP", "SETHI"] 0x01000000).cfg.notImplemented ∧
    Instr.nop.mnemonic ∈ (without ["NOP"] 0x01000000).cfg.notImplemented ∧
    (stepOutcome (without ["NOP"] 0x01000000)).toOption.map Prod.fst = some (.continued none) ∧
    (stepOutcome (without ["SETHI"] 0x01000000)).toOption.map Prod.fst = some (.continued none) ∧
    (stepOutcome (without ["SETHI"] 0x07048D15)).toOption.map Prod.fst =
      some (.illegalInstruction 0x1000 0x07048D15) := by
  decide +kernel

/-- StoppedStepIsSafeToRetry, LastStepRecord: a step with each outcome that changes no state. -/
theorem witness_StoppedStepIsSafeToRetry :
    stepOutcome broken = .ok (.breakpoint 5, broken) ∧
    stepOutcome (Setup.state {}) = .ok (.illegalInstruction 0x1000 0, Setup.state {}) ∧
    stepOutcome fullMemory = .ok (.allocationFailed .secondLevel, fullMemory) ∧
    stepOutcome (Setup.state { psr := 8 }) = .ok (.invalidWindow 8, Setup.state { psr := 8 }) ∧
    stepOutcome { Setup.state {} with errorMode := true } = .ok (.errorMode 0, { Setup.state {} with errorMode := true }) := by
  decide +kernel

/-- WatchpointReport, LastStepRecord: a step that reports a watched write, and a step that writes beside the watched
word. -/
theorem witness_WatchpointReport :
    (stepOutcome watched).toOption.map (fun p => (p.1, p.2.writes)) =
      some (.watchpoint 1 0x2000 0 7, [⟨0x2000, [0, 0, 0, 7]⟩]) ∧
    (stepOutcome (Setup.on { x := [(1, 0x2004), (3, 7)] } 0xC6206000)).toOption.map (fun p => (p.1, p.2.writes)) =
      some (.continued none, [⟨0x2004, [0, 0, 0, 7]⟩]) := by
  decide +kernel

/-- ContinueComposes: a continue of one step that stops, and one that does not. -/
theorem witness_ContinueComposes :
    (continueFor 1 broken).toOption.map (fun p => p.1.isContinue) = some false ∧
    (continueFor 1 (Setup.on {} 0x01000000)).toOption.map (fun p => p.1.isContinue) = some true ∧ 0 < 1 := by
  decide +kernel

/-- TaggedArithmetic: operands at the ends of the signed range with no tag overflow. -/
theorem witness_TaggedArithmetic :
    let s := Setup.state { x := [(1, 0x7FFFFFF8), (2, 0x80000004)] }
    s.Shaped ∧
    (decide ((s.x 1 + s.operand (.imm 4)).toInt ≠ (s.x 1).toInt + (s.operand (.imm 4)).toInt) ||
      (decide ((s.x 1).toNat % 4 ≠ 0) || decide ((s.operand (.imm 4)).toNat % 4 ≠ 0))) = false ∧
    (decide ((s.x 2 - s.operand (.imm 4)).toInt ≠ (s.x 2).toInt - (s.operand (.imm 4)).toInt) ||
      (decide ((s.x 2).toNat % 4 ≠ 0) || decide ((s.operand (.imm 4)).toNat % 4 ≠ 0))) = false := by
  decide +kernel

/-- TagOverflowTraps: the first sum and difference that overflow, and a tag. -/
theorem witness_TagOverflowTraps :
    let s := Setup.state { x := [(1, 0x7FFFFFFC), (2, 0x80000000), (3, 1)] }
    s.Shaped ∧ (s.x 1 + s.operand (.imm 4)).toInt ≠ (s.x 1).toInt + (s.operand (.imm 4)).toInt ∧
    (s.x 2 - s.operand (.imm 4)).toInt ≠ (s.x 2).toInt - (s.operand (.imm 4)).toInt ∧ (s.x 3).toNat % 4 ≠ 0 := by
  decide +kernel

/-- Divide: the divisors next to zero, of either sign, and zero. -/
theorem witness_Divide :
    (Setup.state {}).Shaped ∧ (Setup.state {}).operand (.imm 1) ≠ 0 ∧ (Setup.state {}).operand (.imm (-1)) ≠ 0 ∧
    (Setup.state {}).operand (.imm 0) = 0 := by
  decide +kernel

/-- The FPU enabled: FloatBranches, FloatMoves. -/
theorem witness_fpuOn : Psr.ef (Setup.state {}).psr = true := by decide +kernel

/-- CallAndJump: the highest aligned target. -/
theorem witness_CallAndJump :
    (Setup.state {}).Shaped ∧ ((Setup.state {}).x 0 + (Setup.state {}).operand (.imm (-4))).toNat % 4 = 0 := by
  decide +kernel

/-- ReturnFromTrap: traps disabled, supervisor mode, from the last window to the first and to the highest aligned
target. -/
theorem witness_ReturnFromTrap :
    let s := Setup.state { psr := 0x1087 }
    s.Shaped ∧ Psr.et s.psr = false ∧ Psr.s s.psr = true ∧ s.wim.getLsbD ((s.window + 1) % s.cfg.nwindows) = false ∧
      (s.x 0 + s.operand (.imm (-4))).toNat % 4 = 0 := by
  decide +kernel

/-- ReturnFromTrapChecks: user mode, supervisor mode with traps enabled, and the two checks with traps disabled. -/
theorem witness_ReturnFromTrapChecks :
    let s := Setup.state { psr := 0x1087 }
    let invalid := Setup.state { psr := 0x1087, wim := 1 }
    user.state.Shaped ∧ Psr.s user.state.psr = false ∧
    (Setup.state {}).Shaped ∧ Psr.s (Setup.state {}).psr = true ∧ Psr.et (Setup.state {}).psr = true ∧
    s.Shaped ∧ Psr.s s.psr = true ∧ Psr.et s.psr = false ∧ s.wim.getLsbD ((s.window + 1) % s.cfg.nwindows) = false ∧
      (s.x 0 + s.operand (.imm (-1))).toNat % 4 ≠ 0 ∧
    invalid.Shaped ∧ Psr.s invalid.psr = true ∧ Psr.et invalid.psr = false ∧
      invalid.wim.getLsbD ((invalid.window + 1) % invalid.cfg.nwindows) = true := by
  decide +kernel

/-- SaveAndRestore: both ways round the ring of windows. -/
theorem witness_SaveAndRestore :
    let first := Setup.state {}
    let last := Setup.state { psr := 0x10A7 }
    first.Shaped ∧ first.wim.getLsbD ((first.window + first.cfg.nwindows - 1) % first.cfg.nwindows) = false ∧
    last.Shaped ∧ last.wim.getLsbD ((last.window + 1) % last.cfg.nwindows) = false := by
  decide +kernel

/-- WindowAndPrivilegeTraps: both neighbours marked, and user mode. -/
theorem witness_WindowAndPrivilegeTraps :
    let s := Setup.state { wim := 0x82 }
    s.Shaped ∧ s.wim.getLsbD ((s.window + s.cfg.nwindows - 1) % s.cfg.nwindows) = true ∧
    s.wim.getLsbD ((s.window + 1) % s.cfg.nwindows) = true ∧ user.state.Shaped ∧ Psr.s user.state.psr = false := by
  decide +kernel

/-- WindowsOverlap: the smallest and the largest ring, and a SAVE that writes another register. -/
theorem witness_WindowsOverlap :
    (2 ≤ 2 ∧ 2 ≤ 32 ∧ 0 < 2 ∧ 1 < 2) ∧ (2 ≤ 32 ∧ 32 ≤ 32 ∧ 31 < 32) ∧
    resolve 32 31 (BitVec.ofNat 5 (16 + 7)) = resolve 32 31 23 ∧
    (Setup.state {}).Shaped ∧ (Setup.state {}).wim.getLsbD 7 = false ∧
    (nextOf (exec (.save 14 14 (.imm (-96))) (Setup.state {}))).isSome = true ∧
    (14 : Reg) ≠ BitVec.ofNat 5 (24 + (0 : Fin 8).val) := by
  decide +kernel

/-- StateRegisterReads, StateRegisterWrites: supervisor mode, and the largest cwp. -/
theorem witness_StateRegisterWrites :
    (Setup.state {}).Shaped ∧ Psr.s (Setup.state {}).psr = true ∧
    (castToPSR ((Setup.state {}).x 0 ^^^ (Setup.state {}).operand (.imm 7))).cwp.toNat < (Setup.state {}).cfg.nwindows := by
  decide +kernel

/-- IllegalFields: the highest odd register, and the smallest cwp that is no window. -/
theorem witness_IllegalFields :
    (31 : Reg).toNat % 2 = 1 ∧ Psr.s (Setup.state {}).psr = true ∧
    (Setup.state {}).cfg.nwindows ≤ (castToPSR ((Setup.state {}).x 0 ^^^ (Setup.state {}).operand (.imm 8))).cwp.toNat := by
  decide +kernel

/-- IntegerLoads, Stores, AtomicAccess, FloatLoads: the highest address of each alignment, the last pair of registers,
and a page that can be made. -/
theorem witness_Memory :
    let s := Setup.state {}
    s.Shaped ∧ Psr.ef s.psr = true ∧ (s.x 0 + s.operand (.imm (-2))).toNat % 2 = 0 ∧
    (s.x 0 + s.operand (.imm (-4))).toNat % 4 = 0 ∧ (s.x 0 + s.operand (.imm (-8))).toNat % 8 = 0 ∧
    (30 : Reg).toNat % 2 = 0 ∧ s.Allocatable (s.x 0 + s.operand (.imm (-2))) ∧
    s.Allocatable (s.x 0 + s.operand (.imm (-4))) ∧ s.Allocatable (s.x 0 + s.operand (.imm (-8))) := by
  refine ⟨?_, ?_, ?_, ?_, ?_, ?_, ⟨_, rfl⟩, ⟨_, rfl⟩, ⟨_, rfl⟩⟩ <;> decide +kernel

/-- MisalignedTraps: one off each alignment, and an address aligned to a word and no more. -/
theorem witness_MisalignedTraps :
    let s := Setup.state {}
    s.Shaped ∧ Psr.ef s.psr = true ∧ (s.x 0 + s.operand (.imm 1)).toNat % 2 ≠ 0 ∧
    (s.x 0 + s.operand (.imm 2)).toNat % 4 ≠ 0 ∧ (s.x 0 + s.operand (.imm 4)).toNat % 8 ≠ 0 ∧
    (30 : Reg).toNat % 2 = 0 := by
  decide +kernel

/-- EnsureIsAtomic: no table left, no page left, and neither. -/
theorem witness_EnsureIsAtomic :
    (0 ∉ noTables.mem.l2 ∧ noTables.cfg.l2Capacity = some noTables.mem.l2.length) ∧
    (¬(0 ∉ noPages.mem.l2 ∧ noPages.cfg.l2Capacity = some noPages.mem.l2.length) ∧
      1 ∉ noPages.mem.pages ∧ noPages.cfg.pageCapacity = some noPages.mem.pages.length) ∧
    noPages.mem.Allocated noPages.cfg ∧ ¬(0 ∉ State.reset.mem.l2 ∧ State.reset.cfg.l2Capacity = some State.reset.mem.l2.length) ∧
    ¬(1 ∉ State.reset.mem.pages ∧ State.reset.cfg.pageCapacity = some State.reset.mem.pages.length) := by
  decide +kernel

/-- AllocationFailureStops: each level, at an address of every alignment. -/
theorem witness_AllocationFailureStops :
    noTables.mem.ensure noTables.cfg (noTables.x 0 + noTables.operand (.imm 8)) = .error .secondLevel ∧
    noPages.mem.ensure noPages.cfg (noPages.x 0 + noPages.operand (.imm 8)) = .error .page ∧
    (noPages.x 0 + noPages.operand (.imm 8)).toNat % 8 = 0 ∧ (30 : Reg).toNat % 2 = 0 ∧
    Psr.ef noTables.psr = true ∧ Psr.ef noPages.psr = true := by
  decide +kernel

/-- FloatDisabledTraps: the FPU disabled, and the last even register. -/
theorem witness_FloatDisabledTraps :
    (Setup.state { psr := 0xA0 }).Shaped ∧ Psr.ef (Setup.state { psr := 0xA0 }).psr = false ∧
    (30 : Reg).toNat % 2 = 0 := by
  decide +kernel

/-- FloatDisabledTraps: an odd number in a field that names no register pair does not keep the FPU check away: LDDF from
the odd base %g1, FdTOi to %f31, FsMULd of %f1 and %f3. -/
theorem witness_FloatDisabledTraps_odd :
    [(0xC1182000 : Word) ||| 1 <<< 14, 0xBFA01A42, 0x81A04D23].map (fun w =>
      (stepOutcome (Setup.on { psr := 0xA0 } w)).toOption.map Prod.fst) =
    List.replicate 3 (some (.continued (some 0x04))) := by
  decide +kernel

/-- FloatSingleResults, FloatDoubleResults, FloatCompares: with no exception enabled no exception is met, whatever the
operation gives. -/
theorem witness_FloatResults :
    Psr.ef (Setup.state {}).psr = true ∧ (30 : Reg).toNat % 2 = 0 ∧
    ∀ e : BitVec 5, e &&& (castToFSR (Setup.state {}).fsr).tem = 0 := by
  decide +kernel

/-- A state with every exception enabled, a signaling single NaN in f0, a signaling double NaN in f2 and an integer that no
single holds in f4. -/
def trapping : State := Setup.state { fsr := 0x0F800000, f := [(0, 0x7F800001), (2, 0x7FF00000), (3, 1), (4, 0x7FFFFFFF)] }

/-- FloatExceptionTraps: an enabled exception for every operation. -/
theorem witness_FloatExceptionTraps :
    let exc := fun (op : FpOp) (a b : BitVec 64) =>
      (fpuCompute trapping.cfg op a b (castToFSR trapping.fsr).rd (castToFSR trapping.fsr).ns).2
    trapping.Shaped ∧ Psr.ef trapping.psr = true ∧
    (∀ op ∈ [FpOp.addS, .subS, .mulS, .divS, .smuld],
      exc op ((trapping.fr 0).zeroExtend 64) ((trapping.fr 0).zeroExtend 64) &&& (castToFSR trapping.fsr).tem ≠ 0) ∧
    (∀ op ∈ [FpOp.sqrtS, .stoi, .stod], exc op 0 ((trapping.fr 0).zeroExtend 64) &&& (castToFSR trapping.fsr).tem ≠ 0) ∧
    exc .itos 0 ((trapping.fr 4).zeroExtend 64) &&& (castToFSR trapping.fsr).tem ≠ 0 ∧
    (∀ op ∈ [FpOp.addD, .subD, .mulD, .divD],
      exc op (trapping.fr 2 ++ trapping.fr (2 + 1)) (trapping.fr 2 ++ trapping.fr (2 + 1)) &&&
        (castToFSR trapping.fsr).tem ≠ 0) ∧
    (∀ op ∈ [FpOp.sqrtD, .dtos, .dtoi],
      exc op 0 (trapping.fr 2 ++ trapping.fr (2 + 1)) &&& (castToFSR trapping.fsr).tem ≠ 0) ∧
    (∀ q, (fcompareS (trapping.fr 0) (trapping.fr 0) q).2 &&& (castToFSR trapping.fsr).tem ≠ 0) ∧
    (∀ q, (fcompareD (trapping.fr 2 ++ trapping.fr (2 + 1)) (trapping.fr 2 ++ trapping.fr (2 + 1)) q).2 &&&
      (castToFSR trapping.fsr).tem ≠ 0) := by
  decide +kernel

/-- CompareFunction: the largest number, an infinity and a signaling NaN of each format. -/
theorem witness_CompareFunction :
    (0x7F800001 : Word).extractLsb' 23 8 = 0xFF ∧ (0x7F800001 : Word).extractLsb' 0 23 ≠ 0 ∧
    (0x7FF0000000000001 : BitVec 64).extractLsb' 52 11 = 0x7FF ∧ (0x7FF0000000000001 : BitVec 64).extractLsb' 0 52 ≠ 0 ∧
    binary32.unpack ((0x7F7FFFFF : Word).zeroExtend 64) = .fin false 0xFFFFFF 104 ∧
    binary32.unpack ((0xFF800000 : Word).zeroExtend 64) = .inf true ∧
    binary64.unpack 0x7FEFFFFFFFFFFFFF = .fin false 0x1FFFFFFFFFFFFF 971 ∧
    binary64.unpack 0xFFF0000000000000 = .inf true := by
  decide +kernel

/-- NanOperands: the smallest and the largest NaN patterns, and infinity, which is none. -/
theorem witness_NanOperands :
    0x7F800000 < (0x7F800001 : Word).toNat % 2 ^ 31 ∧ 0x7F800000 < (0xFFFFFFFF : Word).toNat % 2 ^ 31 ∧
    ¬0x7F800000 < (0xFF800000 : Word).toNat % 2 ^ 31 ∧
    0x7FF0000000000000 < (0x7FF0000000000001 : BitVec 64).toNat % 2 ^ 63 ∧
    0x7FF0000000000000 < (0xFFFFFFFFFFFFFFFF : BitVec 64).toNat % 2 ^ 63 ∧
    ¬0x7FF0000000000000 < (0xFFF0000000000000 : BitVec 64).toNat % 2 ^ 63 := by
  decide +kernel

/-- NanOperands: infinities of both signs, zeros, and a negative number, in both formats. -/
theorem witness_NanOperands_invalid :
    binary32.unpack 0x7F800000 = .inf false ∧ binary32.unpack 0xFF800000 = .inf !false ∧
    binary32.unpack 0x80000000 = .fin true 0 (-149) ∧ binary32.unpack 0x80000001 = .fin true 1 (-149) ∧
    binary64.unpack 0x7FF0000000000000 = .inf false ∧ binary64.unpack 0xFFF0000000000000 = .inf !false ∧
    binary64.unpack 0x8000000000000000 = .fin true 0 (-1074) ∧ binary64.unpack 0x8000000000000001 = .fin true 1 (-1074) := by
  decide +kernel

/-- RoundingDirections: a multiple, and a tie. -/
theorem witness_RoundingDirections :
    (-1 : Int) < 0 ∧ 4 % 2 ^ ((0 : Int) - -1).toNat = 0 ∧ 3 % 2 ^ ((0 : Int) - -1).toNat ≠ 0 := by
  decide +kernel

/-- RoundingDirections: 2^128 is past the largest single, and half the smallest subnormal is not. -/
theorem witness_RoundingDirections_round :
    2 ^ (binary32.fracBits + 1) ≤ (roundAt 1 true 1 128 (2 ^ (binary32.expBits - 1) - 1 - binary32.fracBits)).1 ∧
    ¬2 ^ (binary32.fracBits + 1) ≤ (roundAt 0 false 1 (-150) (2 ^ (binary32.expBits - 1) - 1 - binary32.fracBits)).1 ∧
    binary32.round 1 true 1 128 = (0xFF7FFFFF, 0x09) ∧ binary32.round 0 false 1 (-150) = (0, 0x05) := by
  decide +kernel

/-- RoundingDirections: 1 and 3 in single, with 1 + 3 = 4, 1 - 3 = -2, the exact quotient 3 / 1, and numbers that stand for
1 / 3 and for the root of 3; the zeros 1 - 1 and 0 + 0. -/
theorem witness_RoundingDirections_operations :
    binary32.unpack 0x3F800000 = .fin false 0x800000 (-23) ∧ binary32.unpack 0x40400000 = .fin false 0xC00000 (-22) ∧
    signedInt false 4 = signedInt false 1 + signedInt false 3 ∧ signedInt true 2 = signedInt false 1 - signedInt false 3 ∧
    0x800000 * 2 ^ ((-23 : Int) - -23).toNat = 2 ^ 23 ∧ 0xC00000 * 2 ^ ((-22 : Int) - -23).toNat = 3 * 2 ^ 23 ∧
    3 * 0x800000 * 2 ^ (-((-22 : Int) - -23 - 0)).toNat = 0xC00000 * 2 ^ ((-22 : Int) - -23 - 0).toNat ∧
    44739243 % 2 = 1 ∧ 2 ^ (binary32.fracBits + 2) ≤ 44739243 ∧ (-23 : Int) - -22 - -27 = 26 ∧
    44739242 * 0xC00000 < 0x800000 * 2 ^ 26 ∧ 0x800000 * 2 ^ 26 < 44739244 * 0xC00000 ∧
    58117981 % 2 = 1 ∧ 2 ^ (binary32.fracBits + 2) ≤ 58117981 ∧ (-22 : Int) - 2 * -25 = 28 ∧
    58117980 * 58117980 < 0xC00000 * 2 ^ 28 ∧ 0xC00000 * 2 ^ 28 < 58117982 * 58117982 ∧
    binary32.unpack 0x80000000 = .fin true 0 (-149) ∧ 0 * 2 ^ ((-149 : Int) - -149).toNat = 0 := by
  decide +kernel

/-- RepresentableIsExact: the smallest subnormal of single, the largest negative number of double. -/
theorem witness_RepresentableIsExact :
    (1 : BitVec 64).toNat < 2 ^ (1 + binary32.expBits + binary32.fracBits) ∧ binary32.unpack 1 = .fin false 1 (-149) ∧
    (0xFFEFFFFFFFFFFFFF : BitVec 64).toNat < 2 ^ (1 + binary64.expBits + binary64.fracBits) ∧
    binary64.unpack 0xFFEFFFFFFFFFFFFF = .fin true 0x1FFFFFFFFFFFFF 971 := by
  decide +kernel

/-- ResetMeetsInvariants: the spec values are a legal configuration. -/
theorem witness_ResetMeetsInvariants : Config.spec.Legal := by decide

/-- ShapeIsInvariant, CountersStayAligned, MemoryChangesOnlyByTheWrite, ReadOnlyFields: a step that stores. -/
theorem witness_steps :
    watched.Shaped ∧ watched.PcAligned ∧ watched.mem.wf ∧ watched.cfg.Legal ∧
    (nextOf (step watched)).map (fun t => t.writes.length) = some 1 := by
  decide +kernel

/-- MemoryIsInvariant: memory with a program in it. -/
theorem witness_MemoryIsInvariant :
    watched.cfg.Legal ∧ watched.MemoryGood ∧ (nextOf (step watched)).isSome = true := by
  refine ⟨?_, ⟨?_, ?_, ?_, ?_⟩, ?_⟩
  · decide +kernel
  · decide +kernel
  · decide +kernel
  · intro k h
    cases h
  · intro k h
    cases h
  · decide +kernel

/-- UserModeIsConfined: in user mode a step that completes, and one that traps. -/
theorem witness_UserModeIsConfined :
    Psr.s (user.on 0x01000000).psr = false ∧
    (nextOf (step (user.on 0x01000000))).map State.report = some (.continued none) ∧
    (nextOf (step (user.on 0x81500000))).map (fun t => (t.report, Psr.s t.psr)) = some (.continued (some 3), true) := by
  decide +kernel

/-- TrapAndErrorModeEntry: a step that takes a trap, and one that enters error mode. -/
theorem witness_TrapAndErrorModeEntry :
    (user.on 0x81500000).Shaped ∧
    (stepOutcome (user.on 0x81500000)).toOption.map Prod.fst = some (.continued (some 3)) ∧
    (Setup.on { psr := 0 } 0x81500000).Shaped ∧ (Setup.on { psr := 0 } 0x81500000).errorMode = false ∧
    (stepOutcome (Setup.on { psr := 0 } 0x81500000)).toOption.map Prod.fst = some (.errorMode 3) := by
  decide +kernel

/-- TrapReturnIdiom: from the first window, with every other window marked. -/
theorem witness_TrapReturnIdiom :
    let s := Setup.state { psr := 0x1020, wim := 0xFE }
    s.Shaped ∧ s.PcAligned ∧ Psr.et s.psr = true ∧ s.wim.getLsbD s.window = false := by
  decide +kernel

/-- BreakpointRequests: a table with an entry, the empty table, and a full one. -/
theorem witness_BreakpointRequests :
    let full : State := { Setup.state {} with
      bps := ⟨[⟨1, 0, .data⟩, ⟨2, 4, .data⟩, ⟨5, 4, .execution⟩, ⟨6, 0xFFFFFFFC, .data⟩], 7⟩ }
    broken.bps.wf broken.cfg.bpCapacity ∧ (∃ e ∈ broken.bps.entries, e.addr = 0x1003 &&& 0xFFFFFFFC ∧ e.kind = .execution) ∧
    (∀ e ∈ broken.bps.entries, ¬(e.addr = 0x1003 &&& 0xFFFFFFFC ∧ e.kind = .data)) ∧
    broken.bps.entries.length ≠ broken.cfg.bpCapacity ∧
    full.bps.wf full.cfg.bpCapacity ∧ (∀ e ∈ full.bps.entries, ¬(e.addr = 8 &&& 0xFFFFFFFC ∧ e.kind = .data)) ∧
    full.bps.entries.length = full.cfg.bpCapacity ∧ (∀ e ∈ full.bps.entries, e.serial ≠ 3) ∧
    (∃ e ∈ full.bps.entries, e.serial = 6) := by
  decide +kernel

end Sys2Proof.Tests
end

/-! PROOF. The structured views of the PSR and the FSR (10_state R113, R123): packing is a concatenation, which loses no
field and puts each at its place. -/

namespace Sys2Proof.Machine

/-! ### Concatenation -/

/-- A concatenation read as a number: the upper part is worth 2 ^ n of the lower. -/
theorem toNat_append_eq_add {m n : Nat} (x : BitVec m) (y : BitVec n) :
    (x ++ y).toNat = x.toNat * 2 ^ n + y.toNat := by
  rw [BitVec.toNat_append, ← Nat.shiftLeft_add_eq_or_of_lt y.isLt, Nat.shiftLeft_eq]

/-- A concatenation determines both of its parts. -/
theorem append_eq_append_iff {m n : Nat} {x x' : BitVec m} {y y' : BitVec n} :
    x ++ y = x' ++ y' ↔ x = x' ∧ y = y' := by
  constructor
  · intro h
    have upper := congrArg (BitVec.extractLsb' n m) h
    have lower := congrArg (BitVec.extractLsb' 0 n) h
    rw [BitVec.extractLsb'_append_eq_left, BitVec.extractLsb'_append_eq_left] at upper
    rw [BitVec.extractLsb'_append_eq_right, BitVec.extractLsb'_append_eq_right] at lower
    exact ⟨upper, lower⟩
  · rintro ⟨rfl, rfl⟩
    rfl

/-! ### Each field at its place (10_state R110, R120) -/

theorem toNat_packPSR (p : PsrFields) :
    (packPSR p).toNat = p.impl.toNat * 2 ^ 28 + p.ver.toNat * 2 ^ 24 + p.icc.n.toNat * 2 ^ 23 +
      p.icc.z.toNat * 2 ^ 22 + p.icc.v.toNat * 2 ^ 21 + p.icc.c.toNat * 2 ^ 20 + p.reserved.toNat * 2 ^ 14 +
      p.ec.toNat * 2 ^ 13 + p.ef.toNat * 2 ^ 12 + p.pil.toNat * 2 ^ 8 + p.s.toNat * 2 ^ 7 + p.ps.toNat * 2 ^ 6 +
      p.et.toNat * 2 ^ 5 + p.cwp.toNat := by
  change @BitVec.toNat (4 + 4 + 1 + 1 + 1 + 1 + 6 + 1 + 1 + 4 + 1 + 1 + 1 + 5) (_ ++ _) = _
  simp only [toNat_append_eq_add, BitVec.toNat_ofBool]
  ring

theorem toNat_packFSR (p : FsrFields) :
    (packFSR p).toNat = p.rd.toNat * 2 ^ 30 + p.uhigh.toNat * 2 ^ 28 + p.tem.toNat * 2 ^ 23 + p.ns.toNat * 2 ^ 22 +
      p.res.toNat * 2 ^ 21 + p.ver.toNat * 2 ^ 18 + p.ftt.toNat * 2 ^ 15 + p.qne.toNat * 2 ^ 14 +
      p.fcc.toNat * 2 ^ 12 + p.ulow.toNat * 2 ^ 10 + p.aexc.toNat * 2 ^ 5 + p.cexc.toNat := by
  change @BitVec.toNat (2 + 2 + 5 + 1 + 1 + 3 + 3 + 1 + 2 + 2 + 5 + 5) (_ ++ _) = _
  simp only [toNat_append_eq_add, BitVec.toNat_ofBool]
  ring

/-! ### Packing loses no field -/

theorem packPSR_injective : Function.Injective packPSR := by
  rintro ⟨impl, ver, ⟨n, z, v, c⟩, reserved, ec, ef, pil, s, ps, et, cwp⟩
    ⟨impl', ver', ⟨n', z', v', c'⟩, reserved', ec', ef', pil', s', ps', et', cwp'⟩ h
  change @Eq (BitVec (4 + 4 + 1 + 1 + 1 + 1 + 6 + 1 + 1 + 4 + 1 + 1 + 1 + 5)) (_ ++ _) (_ ++ _) at h
  simp only [append_eq_append_iff, BitVec.ofBool_eq_iff_eq] at h
  simp only [PsrFields.mk.injEq, Icc.mk.injEq]
  tauto

theorem packFSR_injective : Function.Injective packFSR := by
  rintro ⟨rd, uhigh, tem, ns, res, ver, ftt, qne, fcc, ulow, aexc, cexc⟩
    ⟨rd', uhigh', tem', ns', res', ver', ftt', qne', fcc', ulow', aexc', cexc'⟩ h
  change @Eq (BitVec (2 + 2 + 5 + 1 + 1 + 3 + 3 + 1 + 2 + 2 + 5 + 5)) (_ ++ _) (_ ++ _) at h
  simp only [append_eq_append_iff, BitVec.ofBool_eq_iff_eq] at h
  simp only [FsrFields.mk.injEq]
  tauto

/-- Splitting undoes packing, since packing is injective and undoes splitting. -/
theorem castToPSR_packPSR (p : PsrFields) : castToPSR (packPSR p) = p :=
  packPSR_injective (packPSR_castToPSR (packPSR p))

theorem castToFSR_packFSR (p : FsrFields) : castToFSR (packFSR p) = p :=
  packFSR_injective (packFSR_castToFSR (packFSR p))

/-- Settles O59: packing and splitting undo each other, and a packed word is the sum of its fields at their places. -/
theorem statusViewsTile : Obligations.StatusViewsTile :=
  ⟨packPSR_castToPSR, castToPSR_packPSR, packFSR_castToFSR, castToFSR_packFSR, toNat_packPSR, toNat_packFSR⟩

end Sys2Proof.Machine

/-! PROOF. The state at power-on and after the host's reset (10_state R156). -/

namespace Sys2Proof.Machine

/-- Every register, latch and host record holds its reset value (10_state R156). Memory is not spoken of: power-on empties
it and a reset keeps it. -/
def State.Cleared (t : State) : Prop :=
  (∀ slot, t.readSlot slot = 0) ∧ (∀ r, t.fr r = 0) ∧ t.pc = 0 ∧ t.npc = 4 ∧ t.psr = 0 ∧ t.fsr = 0 ∧ t.tbr = 0 ∧
    t.wim = 0 ∧ t.y = 0 ∧ t.errorMode = false ∧ t.viewOverride = none ∧ t.last.valid = false ∧
    t.bps.entries = [] ∧ t.bps.nextSerial = 1

@[simp] theorem readSlot_powerOn (c : Config) (slot : Slot) : (State.powerOn c).readSlot slot = 0 := by
  cases slot with
  | zero => rfl
  | global k => exact Vector.getElem_replicate ..
  | windowed i =>
    rw [State.readSlot, List.getD_eq_getElem?_getD]
    exact List.getElem?_getD_replicate_default_eq ..

@[simp] theorem fr_powerOn (c : Config) (r : Reg) : (State.powerOn c).fr r = 0 := Vector.getElem_replicate ..

theorem powerOn_cleared (c : Config) : (State.powerOn c).Cleared :=
  ⟨readSlot_powerOn c, fr_powerOn c, rfl, rfl, rfl, rfl, rfl, rfl, rfl, rfl, rfl, rfl, rfl, rfl⟩

/-- A reset differs from power-on in memory alone, which `State.Cleared` does not look at. -/
theorem hostReset_cleared (s : State) : s.hostReset.Cleared := powerOn_cleared s.cfg

/-- Settles O52: both states are cleared; a reset keeps memory, and power-on empties it. -/
theorem resetState : Obligations.ResetState :=
  ⟨fun s => ⟨hostReset_cleared s, hostReset_mem s, hostReset_cfg s⟩,
    fun c => ⟨powerOn_cleared c, fun _ => rfl, rfl⟩⟩

end Sys2Proof.Machine

/-! PROOF. g0 for the host, the slots of the locals, and the overlap of the windows across a SAVE (10_state R102, R105;
43_window_and_state R700). -/

namespace Sys2Proof.Machine

/-! ### g0 (10_state R102) -/

theorem regNamed_g0 : regNamed "g0" = some (.integer 0) := by decide

theorem State.get_g0 (s : State) : s.get "g0" = .ok 0 := by
  rw [State.get, regNamed_g0]
  rfl

theorem State.set_g0 (s : State) (v : Word) : s.set "g0" v = .ok s := by
  rw [State.set, regNamed_g0]
  rfl

/-! ### Slots (10_state R104, R105) -/

theorem resolve_local (nw win : Nat) (k : Fin 8) :
    resolve nw win (BitVec.ofNat 5 (16 + k)) = .windowed (16 * win + 8 + k) := by
  fin_cases k <;> rfl

/-- The upper half of a window's sixteen slots holds its locals and nothing of another window (10_state R105). -/
theorem resolve_eq_local {nw win win' : Nat} {k : Fin 8} {r : Reg}
    (h : resolve nw win' r = .windowed (16 * win + 8 + k)) : win' = win ∧ r = BitVec.ofNat 5 (16 + k) := by
  have hk := k.isLt
  have hr := r.isLt
  have slots : win' = win ∧ r.toNat = 16 + k := by
    unfold resolve at h
    split_ifs at h with hzero hglobal hout hlocal <;> simp only [Slot.windowed.injEq] at h <;> omega
  refine ⟨slots.1, BitVec.eq_of_toNat_eq ?_⟩
  rw [slots.2, BitVec.toNat_ofNat, Nat.mod_eq_of_lt (by omega)]

/-! ### SAVE (43_window_and_state R700) -/

/-- The in of the window before the current one is the current window's out, read in whatever window is current. -/
theorem xIn_in_of_previous {s t : State} {k : Fin 8} (hcfg : t.cfg = s.cfg)
    (hwin : t.window = (s.window + s.cfg.nwindows - 1) % s.cfg.nwindows) :
    t.x (BitVec.ofNat 5 (24 + k)) = t.xIn s.window (BitVec.ofNat 5 (8 + k)) := by
  rw [State.x, State.xIn, State.xIn, hcfg, hwin, ← resolve_outs_are_ins]

/-- The dispatch of SAVE. -/
theorem exec_save (s : State) (rd rs1 : Reg) (op2 : Op2) : exec (.save rd rs1 op2) s = execSave rd rs1 op2 s := rfl

theorem exec_save_valid {s : State} (h : s.Shaped)
    (hv : s.wim.getLsbD ((s.window + s.cfg.nwindows - 1) % s.cfg.nwindows) = false) (rd rs1 : Reg) (op2 : Op2) :
    exec (.save rd rs1 op2) s = moveWindow s.previousWindow rd rs1 op2 s := by
  rw [← previousWindow_toNat h.1] at hv
  rw [exec_save, execSave, State.windowInvalid, hv]
  rfl

/-- After a SAVE into a valid window the callee's ins are the caller's outs, but for one that the SAVE writes. -/
theorem save_passes_outs {s t : State} {rd rs1 : Reg} {op2 : Op2} {k : Fin 8} (h : s.Shaped)
    (hv : s.wim.getLsbD ((s.window + s.cfg.nwindows - 1) % s.cfg.nwindows) = false)
    (hsave : exec (.save rd rs1 op2) s = .next t) :
    t.window = (s.window + s.cfg.nwindows - 1) % s.cfg.nwindows ∧
      (rd ≠ BitVec.ofNat 5 (24 + k) → t.x (BitVec.ofNat 5 (24 + k)) = s.x (BitVec.ofNat 5 (8 + k))) := by
  obtain ⟨t', hmove, hwin, -, -, hslots, -, -, ⟨hcfg, -⟩, -⟩ :=
    gives_moveWindow h (previousWindow_lt h.1) rd rs1 op2
  rw [exec_save_valid h hv, hmove] at hsave
  obtain rfl : t' = t := by injection hsave
  rw [previousWindow_toNat h.1] at hwin hslots
  refine ⟨hwin, fun hrd => ?_⟩
  rw [xIn_in_of_previous hcfg hwin, State.xIn, hcfg]
  refine hslots _ fun r hr heq => hrd ?_
  obtain rfl : r = rd := by simpa using hr
  rw [resolve_outs_are_ins] at heq
  exact (resolve_injective h.1.1 (Nat.mod_lt _ (by have := h.1.1; omega)) heq).symm

/-- Settles O26: g0 has no slot, a window's locals are its own and its outs are the ins of the window before it, and a
SAVE moves to that window. -/
theorem windowsOverlap : Obligations.WindowsOverlap := by
  refine ⟨fun s win v => ⟨rfl, rfl, s.get_g0, s.set_g0 v⟩, ?_, ?_⟩
  · intro nw w w' k r _ _ _ _
    exact ⟨resolve_outs_are_ins k, fun h => resolve_eq_local (h.symm.trans (resolve_local nw w k))⟩
  · intro s t rd rs1 op2 k h hv hsave
    exact save_passes_outs h hv hsave

end Sys2Proof.Machine

/-! PROOF. `ensure` case by case, what a page added to the sets changes, and the writes that call it (20_memory R201,
R202, R205, R211). -/

namespace Sys2Proof.Machine

/-! ### The failures of `ensure` (20_memory R205) -/

/-- The table of the address is missing and no table is left. -/
abbrev Memory.NoTable (c : Config) (m : Memory) (a : Word) : Prop :=
  rootIndex c a ∉ m.l2 ∧ c.l2Capacity = some m.l2.length

/-- The page of the address is missing and no page is left. -/
abbrev Memory.NoPage (c : Config) (m : Memory) (a : Word) : Prop :=
  pageNumber c a ∉ m.pages ∧ c.pageCapacity = some m.pages.length

theorem ensure_of_noTable {c : Config} {m : Memory} {a : Word} (h : m.NoTable c a) :
    m.ensure c a = .error .secondLevel := by
  rw [Memory.ensure, if_pos (by simpa using h)]

theorem ensure_of_noPage {c : Config} {m : Memory} {a : Word} (ht : ¬m.NoTable c a) (hp : m.NoPage c a) :
    m.ensure c a = .error .page := by
  rw [Memory.ensure, if_neg (by simpa using ht), if_pos (by simpa using hp)]

theorem ensure_of_room {c : Config} {m : Memory} {a : Word} (ht : ¬m.NoTable c a) (hp : ¬m.NoPage c a) :
    m.ensure c a = .ok (m.addPage c a) :=
  (ensure_ok_iff ..).2 ⟨ht, hp, rfl⟩

/-! ### The page added -/

theorem length_insertNumber_eq_add (l : List Nat) (n : Nat) :
    (insertNumber l n).length = l.length + if n ∈ l then 0 else 1 := by
  rw [length_insertNumber]
  split_ifs <;> rfl

theorem cellByte_eq_zero {cells : List Host.Cell} {a : Nat} (h : ∀ cell ∈ cells, cell.1 ≠ a) :
    cellByte cells a = 0 := by
  induction cells with
  | nil => rfl
  | cons cell rest ih =>
    obtain ⟨hne, hrest⟩ := List.forall_mem_cons.1 h
    rw [cellByte, if_neg hne, ih hrest]

/-- A byte outside the owned pages reads zero (20_memory R202). -/
theorem byte_eq_zero_of_unowned {c : Config} {m : Memory} (h : m.Allocated c) {b : Word}
    (hb : pageNumber c b ∉ m.pages) : m.byte b = 0 :=
  cellByte_eq_zero fun cell hcell heq => hb (by rw [pageNumber, ← heq]; exact h.1 cell hcell)

/-! ### Writes (20_memory R211) -/

theorem write_of_ensure_ok {c : Config} {m p : Memory} {a : Word} (h : m.ensure c a = .ok p) (bytes : List Byte) :
    m.write c a bytes = .ok (p.storeBytes a bytes) :=
  (write_ok_iff ..).2 ⟨p, h, rfl⟩

theorem write_of_ensure_error {c : Config} {m : Memory} {a : Word} {level : AllocLevel}
    (h : m.ensure c a = .error level) (bytes : List Byte) : m.write c a bytes = .error level := by
  rw [Memory.write, h]

/-- Settles O35: the three answers of `ensure` in the order of its tests; where it succeeds it gives `addPage`, which puts
one number in each set and touches no byte. -/
theorem ensureIsAtomic : Obligations.EnsureIsAtomic := by
  intro c m a root page noTable noPage
  refine ⟨ensure_of_noTable, ensure_of_noPage, fun ht hp => ?_, fun _ => write_of_ensure_error⟩
  have room := ensure_of_room ht hp
  refine ⟨m.addPage c a, room, fun b => m.byte_addPage c a b, mem_insertNumber m.l2 root, mem_insertNumber m.pages page,
    length_insertNumber_eq_add m.l2 root, length_insertNumber_eq_add m.pages page, fun halloc hfresh b hb => ?_,
    fun bytes => ⟨_, write_of_ensure_ok room bytes, storeBytes_l2 .., storeBytes_pages ..⟩⟩
  rw [Memory.byte_addPage]
  exact byte_eq_zero_of_unowned halloc (by rwa [pageNumber, hb])

end Sys2Proof.Machine

/-! PROOF. The outcome of a step and what it says of the last-step record (40_execution_engine R401, R430, R440). -/

namespace Sys2Proof.Machine

/-- A step's outcome is the report of its next state, or it is a fault and the state is the one before (log 3). -/
theorem stepOutcome_ok {s t : State} {out : Report} (h : stepOutcome s = .ok (out, t)) :
    (step s = .next t ∧ out = t.report) ∨ ∃ f, step s = .fault f ∧ out = f.report ∧ t = s := by
  unfold stepOutcome at h
  split at h
  · rename_i u hu
    cases h
    exact .inl ⟨hu, rfl⟩
  · rename_i f hf
    cases h
    exact .inr ⟨f, hf, rfl, rfl⟩
  · cases h

/-- An instruction that gives a next state continues, or it enters error mode and leaves the record alone. -/
theorem Ran.report_cases {s u : State} (h : Ran s u) :
    (∃ trap, u.report = .continued trap) ∨ ∃ tt, u.report = .errorMode tt ∧ u.last = s.last := by
  cases h with
  | completed h => exact .inl ⟨none, h.report⟩
  | trapped t => exact .inl ⟨some t.tt, rfl⟩
  | stopped t => exact .inr ⟨t.tt, rfl, rfl⟩

/-! ### The stages after the execute stage -/

/-- The post-check reports nothing but a watchpoint (60_exceptions R1046). -/
theorem watchHit_some {b : BreakpointTable} {before after : Memory} {ws : List DataWrite} {hit : Report}
    (h : watchHit b before after ws = some hit) : ∃ n a old new, hit = .watchpoint n a old new := by
  obtain ⟨⟨e, a⟩, -, rfl⟩ := Option.map_eq_some_iff.1 h
  exact ⟨_, _, _, _, rfl⟩

theorem finish_of_continued (s : State) {u : State} {trap : Option (BitVec 8)} (h : u.report = .continued trap) :
    finish s u = { u with
      last := ⟨true, s.fetchAddr, s.fetchWord⟩
      report := (watchHit u.bps s.mem u.mem u.writes).getD (.continued trap) } := by
  unfold finish
  rw [h]

theorem finish_of_errorMode (s : State) {u : State} {tt : BitVec 8} (h : u.report = .errorMode tt) :
    finish s u = u := by
  unfold finish
  rw [h]

/-- After an instruction that continues, the step reports Continue or Watchpoint. -/
theorem finish_report_of_continued (s : State) {u : State} {trap : Option (BitVec 8)} (h : u.report = .continued trap) :
    (finish s u).report = .continued trap ∨ ∃ n a old new, (finish s u).report = .watchpoint n a old new := by
  rw [finish_of_continued s h]
  cases hw : watchHit u.bps s.mem u.mem u.writes with
  | none => exact .inl rfl
  | some hit => exact .inr (watchHit_some hw)

/-- Settles O7: a fault is no Continue and changes no state; an instruction that continues gives Continue or Watchpoint,
with the record written; the one that enters error mode writes none. -/
theorem lastStepRecord : Obligations.LastStepRecord := by
  intro s t out h
  obtain ⟨hnext, rfl⟩ | ⟨f, -, rfl, rfl⟩ := stepOutcome_ok h
  · obtain ⟨i, u, -, hexec, rfl⟩ := step_next hnext
    obtain ⟨trap, hcont⟩ | ⟨tt, herr, hlast⟩ := (exec_ran hexec).report_cases
    · have written : (finish s u).last = ⟨true, s.fetchAddr, s.fetchWord⟩ := by rw [finish_of_continued s hcont]
      obtain hrep | ⟨n, a, old, new, hrep⟩ := finish_report_of_continued s hcont <;> rw [hrep] <;> exact written
    · rw [finish_of_errorMode s herr, herr]
      exact hlast
  · cases f <;> rfl

end Sys2Proof.Machine

/-! PROOF. The logical cc instructions, the flags of add and subtract, and the divides (41_integer_arithmetic R501 to
R503, R521 to R531, R560 to R564). -/

namespace Sys2Proof.Machine

/-! ### The logical cc instructions (R503) -/

/-- The shared form of the six logical cc instructions, with the four flags written out. -/
theorem gives_logicCc {s : State} (h : s.Shaped) (rd : Reg) (r : Word) :
    Gives (aluCcResult rd r (logicIcc r) s) fun t =>
      s.WritesX rd r t ∧ castToPSR t.psr = { castToPSR s.psr with icc := ⟨r.msb, decide (r = 0), false, false⟩ } ∧
        s.Advanced t ∧ Quietly t ∧ s.KeptBut t [.integers, .counters, .psr] :=
  gives_aluCc h rd r (logicIcc r)

section
variable (s : State) (rd rs1 : Reg) (op2 : Op2)

theorem exec_andcc : exec (.andcc rd rs1 op2) s =
    aluCcResult rd (s.x rs1 &&& s.operand op2) (logicIcc (s.x rs1 &&& s.operand op2)) s := rfl
theorem exec_andncc : exec (.andncc rd rs1 op2) s =
    aluCcResult rd (s.x rs1 &&& ~~~s.operand op2) (logicIcc (s.x rs1 &&& ~~~s.operand op2)) s := rfl
theorem exec_orcc : exec (.orcc rd rs1 op2) s =
    aluCcResult rd (s.x rs1 ||| s.operand op2) (logicIcc (s.x rs1 ||| s.operand op2)) s := rfl
theorem exec_orncc : exec (.orncc rd rs1 op2) s =
    aluCcResult rd (s.x rs1 ||| ~~~s.operand op2) (logicIcc (s.x rs1 ||| ~~~s.operand op2)) s := rfl
theorem exec_xorcc : exec (.xorcc rd rs1 op2) s =
    aluCcResult rd (s.x rs1 ^^^ s.operand op2) (logicIcc (s.x rs1 ^^^ s.operand op2)) s := rfl
theorem exec_xnorcc : exec (.xnorcc rd rs1 op2) s =
    aluCcResult rd (~~~(s.x rs1 ^^^ s.operand op2)) (logicIcc (~~~(s.x rs1 ^^^ s.operand op2))) s := rfl

end

/-- Settles O12: each of the six is the shared form `gives_logicCc` at its own result. -/
theorem logicCc : Obligations.LogicCc := by
  intro s rd rs1 op2 h
  simp only [exec_andcc, exec_andncc, exec_orcc, exec_orncc, exec_xorcc, exec_xnorcc]
  exact ⟨gives_logicCc h rd _, gives_logicCc h rd _, gives_logicCc h rd _, gives_logicCc h rd _, gives_logicCc h rd _,
    gives_logicCc h rd _⟩

/-! ### The sum and the difference as exact integers (R501, R502) -/

theorem ofInt_carryIn (cin : Bool) : BitVec.ofInt 32 (carryIn cin) = if cin then 1 else 0 := by
  cases cin <;> rfl

theorem addValue_eq (a b : Word) (cin : Bool) : addValue a b cin = a + b + (if cin then 1 else 0) := by
  rw [addValue, ofInt_carryIn]

theorem subValue_eq (a b : Word) (cin : Bool) : subValue a b cin = a - b - (if cin then 1 else 0) := by
  rw [subValue, ofInt_carryIn]

theorem addValue_eq_ofInt_toInt (a b : Word) (cin : Bool) :
    addValue a b cin = BitVec.ofInt 32 (a.toInt + b.toInt + carryIn cin) := by
  rw [BitVec.ofInt_add, BitVec.ofInt_add, BitVec.ofInt_toInt, BitVec.ofInt_toInt, addValue]

theorem toNat_addValue (a b : Word) (cin : Bool) :
    ((addValue a b cin).toNat : Int) = (a.toNat + b.toNat + carryIn cin) % 2 ^ 32 := by
  cases cin <;> simp [addValue, carryIn, BitVec.toNat_add]

/-- A word is the exact integer it was made from, read as signed, when the signed range holds the integer. -/
theorem toInt_ofInt_eq_iff (n : Int) : (BitVec.ofInt 32 n).toInt = n ↔ fitsSigned n = true := by
  rw [BitVec.toInt_ofInt, fitsSigned, Bool.and_eq_true, decide_eq_true_iff, decide_eq_true_iff, Int.bmod_def]
  split_ifs <;> omega

theorem carryIn_cases (cin : Bool) : carryIn cin = 0 ∨ carryIn cin = 1 := by
  cases cin <;> decide

theorem addIcc_v (a b : Word) (cin : Bool) :
    (addIcc a b cin).v = !fitsSigned (a.toInt + b.toInt + carryIn cin) := rfl

theorem addIcc_c (a b : Word) (cin : Bool) :
    (addIcc a b cin).c = decide ((2 : Int) ^ 32 ≤ a.toNat + b.toNat + carryIn cin) := rfl

theorem subIcc_v (a b : Word) (cin : Bool) :
    (subIcc a b cin).v = !fitsSigned (a.toInt - b.toInt - carryIn cin) := rfl

theorem subIcc_c (a b : Word) (cin : Bool) :
    (subIcc a b cin).c = decide ((a.toNat : Int) < b.toNat + carryIn cin) := rfl

/-! ### A difference is the sum with the complement

a - b - cin is a + ~b + (1 - cin), so what holds of every sum holds of every difference. -/

theorem carryIn_not (cin : Bool) : carryIn (!cin) = 1 - carryIn cin := by
  cases cin <;> rfl

theorem signed_sub_eq (a b : Word) (cin : Bool) :
    a.toInt - b.toInt - carryIn cin = a.toInt + (~~~b).toInt + carryIn (!cin) := by
  have complement : (~~~b).toInt = -b.toInt - 1 := by
    rw [BitVec.toInt_eq_toNat_cond, BitVec.toInt_eq_toNat_cond, BitVec.toNat_not]
    omega
  rw [complement, carryIn_not]
  omega

theorem unsigned_sub_eq (a b : Word) (cin : Bool) :
    (a.toNat : Int) - b.toNat - carryIn cin = a.toNat + (~~~b).toNat + carryIn (!cin) - 2 ^ 32 := by
  rw [BitVec.toNat_not, carryIn_not]
  omega

theorem subValue_eq_addValue (a b : Word) (cin : Bool) : subValue a b cin = addValue a (~~~b) (!cin) := by
  rw [subValue_eq, addValue_eq, BitVec.not_eq_neg_add]
  cases cin <;> simp <;> ring

theorem subIcc_v_eq_addIcc_v (a b : Word) (cin : Bool) : (subIcc a b cin).v = (addIcc a (~~~b) (!cin)).v := by
  rw [subIcc_v, addIcc_v, signed_sub_eq]

/-- The borrow is the absence of a carry. -/
theorem subIcc_c_eq_not_addIcc_c (a b : Word) (cin : Bool) :
    (subIcc a b cin).c = !(addIcc a (~~~b) (!cin)).c := by
  have exact_eq := unsigned_sub_eq a b cin
  rw [subIcc_c, addIcc_c, ← decide_not, decide_eq_decide]
  omega

/-! ### The flags and the exact integers -/

theorem addIcc_v_eq_false_iff (a b : Word) (cin : Bool) :
    (addIcc a b cin).v = false ↔ (addValue a b cin).toInt = a.toInt + b.toInt + carryIn cin := by
  rw [addIcc_v, Bool.not_eq_false', addValue_eq_ofInt_toInt, toInt_ofInt_eq_iff]

theorem addIcc_c_eq_false_iff (a b : Word) (cin : Bool) :
    (addIcc a b cin).c = false ↔ ((addValue a b cin).toNat : Int) = a.toNat + b.toNat + carryIn cin := by
  have hcin := carryIn_cases cin
  rw [addIcc_c, decide_eq_false_iff_not, toNat_addValue]
  omega

theorem subIcc_v_eq_false_iff (a b : Word) (cin : Bool) :
    (subIcc a b cin).v = false ↔ (subValue a b cin).toInt = a.toInt - b.toInt - carryIn cin := by
  rw [subIcc_v_eq_addIcc_v, addIcc_v_eq_false_iff, subValue_eq_addValue, signed_sub_eq]

theorem subIcc_c_eq_false_iff (a b : Word) (cin : Bool) :
    (subIcc a b cin).c = false ↔ ((subValue a b cin).toNat : Int) = a.toNat - b.toNat - carryIn cin := by
  have hcin := carryIn_cases cin
  have exact_eq := unsigned_sub_eq a b cin
  rw [subIcc_c, decide_eq_false_iff_not, subValue_eq_addValue, toNat_addValue]
  omega

/-! ### The bit formulas -/

/-- Signed overflow of a sum: operands of one sign and a result of the other. -/
theorem addIcc_v_eq_bits (a b : Word) (cin : Bool) :
    (addIcc a b cin).v =
      ((a.msb && b.msb && !(addValue a b cin).msb) || (!a.msb && !b.msb && (addValue a b cin).msb)) := by
  have hsum := toNat_addValue a b cin
  have hcin := carryIn_cases cin
  rw [Bool.eq_iff_iff, ← Bool.not_eq_false, addIcc_v_eq_false_iff]
  simp only [BitVec.msb_eq_decide, BitVec.toInt_eq_toNat_cond, Bool.or_eq_true, Bool.and_eq_true, Bool.not_eq_true',
    decide_eq_true_eq, decide_eq_false_iff_not]
  omega

/-- The carry out of a sum: both sign bits, or either of them and none in the result. -/
theorem addIcc_c_eq_bits (a b : Word) (cin : Bool) :
    (addIcc a b cin).c = ((a.msb && b.msb) || (!(addValue a b cin).msb && (a.msb || b.msb))) := by
  have hsum := toNat_addValue a b cin
  have hcin := carryIn_cases cin
  rw [Bool.eq_iff_iff, ← Bool.not_eq_false, addIcc_c_eq_false_iff]
  simp only [BitVec.msb_eq_decide, Bool.or_eq_true, Bool.and_eq_true, Bool.not_eq_true',
    decide_eq_true_eq, decide_eq_false_iff_not]
  omega

theorem subIcc_v_eq_bits (a b : Word) (cin : Bool) :
    (subIcc a b cin).v =
      ((a.msb && !b.msb && !(subValue a b cin).msb) || (!a.msb && b.msb && (subValue a b cin).msb)) := by
  rw [subIcc_v_eq_addIcc_v, addIcc_v_eq_bits, subValue_eq_addValue, BitVec.msb_not]
  simp

theorem subIcc_c_eq_bits (a b : Word) (cin : Bool) :
    (subIcc a b cin).c = ((!a.msb && b.msb) || ((subValue a b cin).msb && (!a.msb || b.msb))) := by
  rw [subIcc_c_eq_not_addIcc_c, addIcc_c_eq_bits, subValue_eq_addValue, BitVec.msb_not]
  cases a.msb <;> cases b.msb <;> simp

/-- Settles O13: the bit formulas, and the flags against the exact integers, each proved for
`addValue` and `subValue`, which are the sum and the difference. -/
theorem flagFormulas : Obligations.FlagFormulas := by
  intro a b cin
  simp only [← addValue_eq, ← subValue_eq]
  refine ⟨trivial, trivial, ?_, ?_, addIcc_v_eq_false_iff a b cin, addIcc_c_eq_false_iff a b cin,
    subIcc_v_eq_false_iff a b cin, subIcc_c_eq_false_iff a b cin⟩
  · rw [← addIcc_v_eq_bits, ← addIcc_c_eq_bits]
    rfl
  · rw [← subIcc_v_eq_bits, ← subIcc_c_eq_bits]
    rfl

/-! ### The quotients (R560) -/

/-- The unsigned quotient, clamped to the unsigned range. -/
theorem unsignedQuotient_eq (y a b : Word) :
    unsignedQuotient y a b =
      (BitVec.ofNat 32 (min ((y.toNat * 2 ^ 32 + a.toNat) / b.toNat) (2 ^ 32 - 1)),
        decide (2 ^ 32 ≤ (y.toNat * 2 ^ 32 + a.toNat) / b.toNat)) := by
  rw [unsignedQuotient, toNat_append_eq_add]
  generalize (y.toNat * 2 ^ 32 + a.toNat) / b.toNat = q
  split_ifs with above
  · rw [min_eq_right (by omega), decide_eq_true (by omega)]
    rfl
  · rw [min_eq_left (by omega), decide_eq_false (by omega)]

/-- The quotient rounded toward zero, clamped to the signed range. -/
theorem signedQuotient_eq (y a b : Word) :
    signedQuotient y a b =
      (BitVec.ofInt 32 (max (-2 ^ 31) (min ((y.toInt * 2 ^ 32 + a.toNat).tdiv b.toInt) (2 ^ 31 - 1))),
        decide (2 ^ 31 ≤ (y.toInt * 2 ^ 32 + a.toNat).tdiv b.toInt) ||
          decide ((y.toInt * 2 ^ 32 + a.toNat).tdiv b.toInt < -2 ^ 31)) := by
  have dividend : (y ++ a).toInt = y.toInt * 2 ^ 32 + a.toNat := by
    rw [BitVec.toInt_append, if_neg (by decide), mul_comm]
  rw [signedQuotient, dividend]
  generalize (y.toInt * 2 ^ 32 + a.toNat).tdiv b.toInt = q
  split_ifs with above below
  · rw [min_eq_right (by omega), decide_eq_true (by omega : (2 : Int) ^ 31 ≤ q)]
    rfl
  · rw [min_eq_left (by omega), max_eq_left (by omega), decide_eq_true below, Bool.or_true]
    rfl
  · rw [min_eq_left (by omega), max_eq_right (by omega), decide_eq_false (by omega : ¬(2 : Int) ^ 31 ≤ q),
      decide_eq_false below, Bool.or_false]

/-! ### The divides (R561 to R564) -/

theorem traps_div {s : State} (h : s.Shaped) (rd : Reg) {d : Word} (hd : d = 0) (q : Word × Bool) :
    Traps 0x2A s.fsr s (divResult rd d q s) := by
  rw [divResult, if_pos hd]
  exact traps_raise h .divisionByZero

theorem traps_divCc {s : State} (h : s.Shaped) (rd : Reg) {d : Word} (hd : d = 0) (q : Word × Bool) :
    Traps 0x2A s.fsr s (divCcResult rd d q s) := by
  rw [divCcResult, if_pos hd]
  exact traps_raise h .divisionByZero

section
variable (s : State) (rd rs1 : Reg) (op2 : Op2)

theorem exec_udiv : exec (.udiv rd rs1 op2) s =
    divResult rd (s.operand op2) (unsignedQuotient s.y (s.x rs1) (s.operand op2)) s := rfl
theorem exec_sdiv : exec (.sdiv rd rs1 op2) s =
    divResult rd (s.operand op2) (signedQuotient s.y (s.x rs1) (s.operand op2)) s := rfl
theorem exec_udivcc : exec (.udivcc rd rs1 op2) s =
    divCcResult rd (s.operand op2) (unsignedQuotient s.y (s.x rs1) (s.operand op2)) s := rfl
theorem exec_sdivcc : exec (.sdivcc rd rs1 op2) s =
    divCcResult rd (s.operand op2) (signedQuotient s.y (s.x rs1) (s.operand op2)) s := rfl

end

/-- Settles O17: the shared forms of the divides at the clamped quotients; a divisor of 0 traps before any write. -/
theorem divide : Obligations.Divide := by
  intro s rd rs1 op2 h
  simp only [exec_udiv, exec_sdiv, exec_udivcc, exec_sdivcc, unsignedQuotient_eq, signedQuotient_eq]
  exact ⟨fun hb => ⟨gives_div h rd hb _, gives_div h rd hb _, gives_divCc h rd hb _, gives_divCc h rd hb _⟩,
    fun hb => ⟨traps_div h rd hb _, traps_div h rd hb _, traps_divCc h rd hb _, traps_divCc h rd hb _⟩⟩

end Sys2Proof.Machine

/-! PROOF. The thirty-two branches (42_control_transfer R600 to R611): the displacement as a signed number of words, the
tables of the conditions, and one lemma per family for what a branch gives. -/

namespace Sys2Proof.Machine

/-! ### The target (30_encoding R313) -/

/-- Two zero bits below the displacement and the sign extension: four times the displacement read as signed. -/
theorem branchTarget_eq (pc : Word) (d : BitVec 22) : branchTarget pc d = pc + BitVec.ofInt 32 (4 * d.toInt) := by
  have displacement : (d ++ 0#2).toInt = 4 * d.toInt := by
    rw [BitVec.toInt_append, if_neg (by decide), BitVec.toNat_zero]
    exact add_zero _
  rw [branchTarget, BitVec.signExtend, displacement]

/-! ### The conditions (R601, R611) -/

/-- n and v are the same exactly when they do not differ. -/
theorem IntCond.holds_ge (i : Icc) : IntCond.ge.holds i = (i.n == i.v) := Bool.not_not _

/-- The values of fcc for which a floating-point condition holds (R611). -/
def FpCond.fccs : FpCond → List Nat
  | .n => []
  | .ne => [1, 2, 3]
  | .lg => [1, 2]
  | .ul => [1, 3]
  | .l => [1]
  | .ug => [2, 3]
  | .g => [2]
  | .u => [3]
  | .a => [0, 1, 2, 3]
  | .e => [0]
  | .ue => [0, 3]
  | .ge => [0, 2]
  | .uge => [0, 2, 3]
  | .le => [0, 1]
  | .ule => [0, 1, 3]
  | .o => [0, 1, 2]

/-- Each condition is checked at the four values of fcc. -/
theorem FpCond.holds_iff (c : FpCond) (fcc : BitVec 2) : c.holds fcc = true ↔ fcc.toNat ∈ c.fccs := by
  cases c <;> revert fcc <;> decide

/-! ### What a branch gives (R600) -/

/-- The instruction completed with pc and npc where a branch puts them, and changed nothing else. `annulTaken` says that
the slot of a taken branch is annulled. -/
def State.Branches (s : State) (a : Bool) (d : BitVec 22) (taken : Prop) [Decidable taken] (annulTaken : Bool)
    (t : State) : Prop :=
  (t.pc, t.npc) = (if taken then
      (if annulTaken then (s.pc + BitVec.ofInt 32 (4 * d.toInt), s.pc + BitVec.ofInt 32 (4 * d.toInt) + 4)
        else (s.npc, s.pc + BitVec.ofInt 32 (4 * d.toInt)))
    else (if a then (s.npc + 4, s.npc + 8) else (s.npc, s.npc + 4))) ∧ Quietly t ∧ s.KeptBut t [.counters]

section
variable (s : State) (a : Bool) (d : BitVec 22)

/-- `gives_branch` with the condition and the annulment in any equivalent form. -/
theorem gives_branches {holds isAlways annulTaken : Bool} {taken : Prop} [Decidable taken]
    (htaken : holds = true ↔ taken) (hannul : (a && isAlways && s.cfg.annulTakenBA) = annulTaken) :
    Gives (.next (branch holds isAlways a d s)) (s.Branches a d taken annulTaken) := by
  have h := gives_branch s holds isAlways a d
  simp only [branchTarget_eq, hannul, htaken] at h
  exact h

/-- BA: only a taken BA can annul its slot. -/
theorem gives_branchIcc_always :
    Gives (branchIcc .a true a d s) (s.Branches a d (true = true) (a && s.cfg.annulTakenBA)) :=
  gives_branches s a d Iff.rfl (by rw [Bool.and_true])

theorem gives_branchIcc (c : IntCond) {taken : Bool} (h : c.holds (castToPSR s.psr).icc = taken) :
    Gives (branchIcc c false a d s) (s.Branches a d (taken = true) false) :=
  gives_branches s a d (h ▸ Iff.rfl) (by rw [Bool.and_false, Bool.false_and])

variable {s} (hef : Psr.ef s.psr = true)
include hef

theorem branchFcc_on (c : FpCond) (isAlways : Bool) :
    branchFcc c isAlways a d s = .next (branch (c.holds (castToFSR s.fsr).fcc) isAlways a d s) := fpEnabled_on hef _

/-- FBA: only a taken FBA can annul its slot. -/
theorem gives_branchFcc_always :
    Gives (branchFcc .a true a d s)
      (s.Branches a d ((castToFSR s.fsr).fcc.toNat ∈ FpCond.a.fccs) (a && s.cfg.annulTakenBA)) := by
  rw [branchFcc_on a d hef]
  exact gives_branches s a d (FpCond.holds_iff ..) (by rw [Bool.and_true])

theorem gives_branchFcc (c : FpCond) :
    Gives (branchFcc c false a d s) (s.Branches a d ((castToFSR s.fsr).fcc.toNat ∈ c.fccs) false) := by
  rw [branchFcc_on a d hef]
  exact gives_branches s a d (FpCond.holds_iff ..) (by rw [Bool.and_false, Bool.false_and])

end

/-- Settles O19: each Bicc is `branchIcc` on the condition of its row; that of BGE is the one the table writes another
way. -/
theorem integerBranches : Obligations.IntegerBranches := by
  intro s a d
  have row := gives_branchIcc s a d
  exact ⟨gives_branchIcc_always s a d, row .n rfl, row .ne rfl, row .e rfl, row .g rfl, row .le rfl,
    row .ge (IntCond.holds_ge _), row .l rfl, row .gu rfl, row .leu rfl, row .cc rfl, row .cs rfl, row .pos rfl,
    row .neg rfl, row .vc rfl, row .vs rfl⟩

/-- Settles O20: with the FPU enabled each FBfcc is a branch on the values of fcc of its row. -/
theorem floatBranches : Obligations.FloatBranches := by
  intro s a d hef
  have row := gives_branchFcc a d hef
  exact ⟨gives_branchFcc_always a d hef, row .n, row .u, row .g, row .ug, row .l, row .ul, row .lg, row .ne, row .e,
    row .ue, row .ge, row .uge, row .le, row .ule, row .o⟩

end Sys2Proof.Machine

/-! PROOF. The misaligned accesses and jump targets (44_load_store R801, R802; 42_control_transfer R621): the guard that
traps, and the two checks that stand before it. -/

namespace Sys2Proof.Machine

/-! ### The checks in their order (R802) -/

/-- The access behind the guard is never run, whatever it is (R801). -/
theorem traps_whenAligned {s : State} (h : s.Shaped) {a : Word} {n : Nat} (ha : a.toNat % n ≠ 0) (access : Result) :
    Traps 0x07 s.fsr s (whenAligned a n s access) := by
  rw [whenAligned_not ha]
  exact traps_raise h .memAddressNotAligned

theorem traps_evenPair {tt : BitVec 8} {v : Word} {s : State} {r : Reg} {body : Result} (hr : r.toNat % 2 = 0)
    (hbody : Traps tt v s body) : Traps tt v s (evenPair r s body) := by
  rwa [evenPair_even hr]

theorem traps_fpEnabled {tt : BitVec 8} {v : Word} {s : State} {body : Result} (hef : Psr.ef s.psr = true)
    (hbody : Traps tt v s body) : Traps tt v s (fpEnabled s body) := by
  rwa [fpEnabled_on hef]

/-- Settles O34: each instruction is its guard at ea, behind the pair check of the doublewords and the FPU enable of the
floating-point accesses, which pass. -/
theorem misalignedTraps : Obligations.MisalignedTraps := by
  intro s rd rs1 op2 h ea raises
  have guard {n : Nat} (hn : ea.toNat % n ≠ 0) (access : Result) :
      Traps 0x07 s.fsr s (whenAligned (s.address rs1 op2) n s access) := traps_whenAligned h hn access
  refine ⟨fun half => ?halves, fun word => ?words, fun double even => ?doubles,
    fun hef => ⟨fun word => ?floatWords, fun double even => ?floatDoubles⟩⟩
  case halves => exact ⟨guard half _, guard half _, guard half _⟩
  case words => exact ⟨guard word _, guard word _, guard word _, guard word _⟩
  case doubles => exact ⟨traps_evenPair even (guard double _), traps_evenPair even (guard double _)⟩
  case floatWords =>
    have enabled (access : Result) := traps_fpEnabled hef (guard word access)
    exact ⟨enabled _, enabled _, enabled _, enabled _⟩
  case floatDoubles =>
    have enabled (access : Result) := traps_evenPair even (traps_fpEnabled hef (guard double access))
    exact ⟨enabled _, enabled _⟩

end Sys2Proof.Machine

/-! PROOF. The FPU enable (45_floating_point R900): the pair checks pass and the instruction behind the guard is never
run. -/

namespace Sys2Proof.Machine

/-- What an instruction would do with the FPU enabled is never run, whatever it is (R900). -/
theorem traps_fpDisabled {s : State} (h : s.Shaped) (hef : Psr.ef s.psr = false) (body : Result) :
    Traps 0x04 s.fsr s (fpEnabled s body) := by
  rw [fpEnabled_off hef]
  exact traps_raise h .fpDisabled

/-- Settles O37: each instruction is the FPU check of its body, behind the checks of its own register pairs, which
pass. -/
theorem floatDisabledTraps : Obligations.FloatDisabledTraps := by
  intro s rd rs1 rs2 op2 a d opf h hef raises
  have off (body : Result) : Traps 0x04 s.fsr s (fpEnabled s body) := traps_fpDisabled h hef body
  have pair {r : Reg} (even : r.toNat % 2 = 0) (body : Result) :
      Traps 0x04 s.fsr s (evenPair r s (fpEnabled s body)) := traps_evenPair even (off body)
  simp only [← List.forall_iff_forall_mem]
  refine ⟨?branches, ?memory, ?singles, fun evenRd => ?toDouble, fun evenRs2 => ?fromDouble,
    fun evenRd evenRs2 => ?root, fun evenRs1 evenRs2 => ?compares, fun evenRd evenRs1 evenRs2 => ?arithmetic⟩
  case branches =>
    exact ⟨off _, off _, off _, off _, off _, off _, off _, off _, off _, off _, off _, off _, off _, off _, off _, off _⟩
  case memory => exact ⟨off _, off _, off _, off _⟩
  case singles =>
    exact ⟨off _, off _, off _, off _, off _, off _, off _, off _, off _, off _, off _, off _, off _, off _⟩
  case toDouble => exact ⟨pair evenRd _, pair evenRd _, pair evenRd _, pair evenRd _, pair evenRd _⟩
  case fromDouble => exact ⟨pair evenRs2 _, pair evenRs2 _⟩
  case root => exact traps_evenPair evenRs2 (pair evenRd _)
  case compares =>
    have sources (body : Result) := traps_evenPair evenRs1 (pair evenRs2 body)
    exact ⟨sources _, sources _⟩
  case arithmetic =>
    have registers (body : Result) := traps_evenPair evenRs1 (traps_evenPair evenRs2 (pair evenRd body))
    exact ⟨registers _, registers _, registers _, registers _⟩

end Sys2Proof.Machine

/-! PROOF. The compare function (45_floating_point R940): the bits below the sign bit, read as a number, are ordered as
the numbers they stand for, with infinity the first above them all and the NaNs above infinity. -/

namespace Sys2Proof.Machine

/-! ### The bits as a sign and a magnitude -/

/-- The sign bit. -/
def Format.sign (f : Format) (bits : BitVec 64) : Bool := bits.getLsbD (f.expBits + f.fracBits)

/-- The bits below the sign bit as a number. -/
def Format.magnitude (f : Format) (bits : BitVec 64) : Nat := bits.toNat % 2 ^ (f.fracBits + f.expBits)

/-- Whether bits stand for a NaN: their magnitude is above that of infinity. -/
def Format.isNan (f : Format) (bits : BitVec 64) : Bool := decide (f.infBits < f.magnitude bits)

section
variable (f : Format) (bits : BitVec 64)

theorem magnitude_div : f.magnitude bits / 2 ^ f.fracBits = bits.toNat / 2 ^ f.fracBits % 2 ^ f.expBits := by
  rw [Format.magnitude, pow_add, Nat.mod_mul_right_div_self]

theorem magnitude_mod : f.magnitude bits % 2 ^ f.fracBits = bits.toNat % 2 ^ f.fracBits := by
  rw [Format.magnitude, pow_add, Nat.mod_mul_right_mod]

theorem magnitude_lt_infBits_iff :
    f.magnitude bits < f.infBits ↔ f.magnitude bits / 2 ^ f.fracBits ≠ 2 ^ f.expBits - 1 := by
  have bound : f.magnitude bits / 2 ^ f.fracBits < 2 ^ f.expBits := by
    rw [magnitude_div]; exact Nat.mod_lt _ (by positivity)
  rw [Format.infBits, ← Nat.div_lt_iff_lt_mul (by positivity)]
  omega

theorem magnitude_eq_infBits_iff : f.magnitude bits = f.infBits ↔
    f.magnitude bits / 2 ^ f.fracBits = 2 ^ f.expBits - 1 ∧ f.magnitude bits % 2 ^ f.fracBits = 0 := by
  constructor
  · intro h
    have positive : 0 < 2 ^ f.fracBits := by positivity
    rw [h, Format.infBits]
    exact ⟨Nat.mul_div_cancel _ positive, Nat.mul_mod_left ..⟩
  · rintro ⟨exponent, fraction⟩
    rw [← Nat.div_add_mod' (f.magnitude bits) (2 ^ f.fracBits), exponent, fraction]
    rfl

/-- The NaN patterns of R940: the largest exponent and a nonzero fraction. -/
theorem isNan_iff : f.isNan bits = true ↔
    bits.toNat / 2 ^ f.fracBits % 2 ^ f.expBits = 2 ^ f.expBits - 1 ∧ bits.toNat % 2 ^ f.fracBits ≠ 0 := by
  have finite := magnitude_lt_infBits_iff f bits
  have infinite := magnitude_eq_infBits_iff f bits
  rw [← magnitude_div, ← magnitude_mod, Format.isNan, decide_eq_true_iff]
  omega

/-- `Format.unpack` by the sign and the magnitude: numbers below infinity, NaNs above. -/
theorem unpack_eq_of_magnitude :
    f.unpack bits =
      if f.magnitude bits < f.infBits then
        if f.magnitude bits / 2 ^ f.fracBits = 0 then .fin (f.sign bits) (f.magnitude bits) f.minExp
        else .fin (f.sign bits) (2 ^ f.fracBits + f.magnitude bits % 2 ^ f.fracBits)
          (f.minExp + (f.magnitude bits / 2 ^ f.fracBits : Nat) - 1)
      else if f.magnitude bits = f.infBits then .inf (f.sign bits)
      else .nan (!bits.getLsbD (f.fracBits - 1)) := by
  simp only [Format.unpack, ← magnitude_div, ← magnitude_mod, magnitude_lt_infBits_iff, magnitude_eq_infBits_iff,
    ite_not]
  by_cases largest : f.magnitude bits / 2 ^ f.fracBits = 2 ^ f.expBits - 1
  · simp only [largest, true_and, if_true, Format.sign]
  · rw [if_neg largest, if_neg largest]
    refine ite_congr rfl (fun subnormal => ?_) fun _ => rfl
    rw [Nat.mod_eq_of_lt ((Nat.div_eq_zero_iff_lt (by positivity)).1 subnormal)]
    rfl

end

/-- The number that magnitude bits stand for, as a multiple of the smallest subnormal. -/
def Format.scaled (f : Format) (k : Nat) : Nat :=
  if k / 2 ^ f.fracBits = 0 then k
  else (2 ^ f.fracBits + k % 2 ^ f.fracBits) * 2 ^ (k / 2 ^ f.fracBits - 1)

theorem of_unpack_fin {f : Format} {bits : BitVec 64} {neg : Bool} {m : Nat} {e : Int}
    (h : f.unpack bits = .fin neg m e) :
    f.sign bits = neg ∧ f.magnitude bits < f.infBits ∧ m * 2 ^ (e - f.minExp).toNat = f.scaled (f.magnitude bits) := by
  rw [unpack_eq_of_magnitude] at h
  split_ifs at h with below subnormal
  · obtain ⟨rfl, rfl, rfl⟩ := Datum.fin.inj h
    refine ⟨rfl, below, ?_⟩
    rw [Format.scaled, if_pos subnormal, sub_self, Int.toNat_zero, pow_zero, mul_one]
  · obtain ⟨rfl, rfl, rfl⟩ := Datum.fin.inj h
    refine ⟨rfl, below, ?_⟩
    rw [Format.scaled, if_neg subnormal]
    congr 2
    omega

theorem of_unpack_inf {f : Format} {bits : BitVec 64} {neg : Bool} (h : f.unpack bits = .inf neg) :
    f.sign bits = neg ∧ f.magnitude bits = f.infBits := by
  rw [unpack_eq_of_magnitude] at h
  split_ifs at h with below _ infinite
  exact ⟨Datum.inf.inj h, infinite⟩

/-! ### Magnitudes are ordered as the numbers they stand for -/

theorem scaled_zero (f : Format) : f.scaled 0 = 0 := if_pos (Nat.zero_div _)

/-- The value by exponent and fraction. -/
theorem scaled_fields (f : Format) (q : Nat) {r : Nat} (hr : r < 2 ^ f.fracBits) :
    f.scaled (q * 2 ^ f.fracBits + r) = if q = 0 then r else (2 ^ f.fracBits + r) * 2 ^ (q - 1) := by
  have quotient : (q * 2 ^ f.fracBits + r) / 2 ^ f.fracBits = q := by
    rw [Nat.mul_comm, Nat.mul_add_div (by positivity), Nat.div_eq_of_lt hr, Nat.add_zero]
  have remainder : (q * 2 ^ f.fracBits + r) % 2 ^ f.fracBits = r := by
    rw [Nat.mul_add_mod_self_right, Nat.mod_eq_of_lt hr]
  rw [Format.scaled, quotient, remainder]
  exact ite_congr rfl (fun hq => by rw [hq, Nat.zero_mul, Nat.zero_add]) fun _ => rfl

/-- From one magnitude to the next the fraction grows, or, after the largest fraction, the exponent. -/
theorem scaled_lt_succ (f : Format) (k : Nat) : f.scaled k < f.scaled (k + 1) := by
  have positive : 0 < 2 ^ f.fracBits := by positivity
  have fraction := Nat.mod_lt k positive
  rw [← Nat.div_add_mod' k (2 ^ f.fracBits), scaled_fields f _ fraction]
  generalize k / 2 ^ f.fracBits = q, k % 2 ^ f.fracBits = r at fraction
  rcases Nat.lt_or_ge (r + 1) (2 ^ f.fracBits) with room | last
  · rw [Nat.add_assoc, scaled_fields f _ room]
    split_ifs
    · exact r.lt_succ_self
    · exact Nat.mul_lt_mul_of_pos_right (by omega) (by positivity)
  · obtain rfl : r = 2 ^ f.fracBits - 1 := by omega
    have carry : q * 2 ^ f.fracBits + (2 ^ f.fracBits - 1) + 1 = (q + 1) * 2 ^ f.fracBits + 0 := by
      rw [Nat.succ_mul]; omega
    rw [carry, scaled_fields f _ positive, if_neg q.succ_ne_zero, Nat.add_sub_cancel, Nat.add_zero]
    cases q with
    | zero => simp
    | succ p =>
      rw [if_neg p.succ_ne_zero, Nat.add_sub_cancel, pow_succ' 2 p, ← Nat.mul_assoc]
      exact Nat.mul_lt_mul_of_pos_right (by omega) (by positivity)

theorem scaled_strictMono (f : Format) : StrictMono f.scaled := strictMono_nat_of_lt_succ (scaled_lt_succ f)

/-- Signed magnitudes are ordered as signed values when the value grows with the magnitude from 0. -/
theorem signedInt_lt_iff {g : Nat → Nat} (mono : StrictMono g) (zero : g 0 = 0) (na nb : Bool) (x y : Nat) :
    signedInt na (g x) < signedInt nb (g y) ↔ signedInt na x < signedInt nb y := by
  have xy := mono.lt_iff_lt (a := x) (b := y)
  have yx := mono.lt_iff_lt (a := y) (b := x)
  have x0 : g x = 0 ↔ x = 0 := by simpa only [zero] using mono.injective.eq_iff (b := 0)
  have y0 : g y = 0 ↔ y = 0 := by simpa only [zero] using mono.injective.eq_iff (b := 0)
  cases na <;> cases nb <;> simp only [signedInt, Bool.false_eq_true, if_false, if_true] <;> omega

/-! ### fcc of two data that are not NaN -/

theorem orderedFcc_congr {a b c d : Int} (lt : a < b ↔ c < d) (gt : b < a ↔ d < c) :
    orderedFcc a b = orderedFcc c d := by
  have eq : a = b ↔ c = d := by omega
  simp only [orderedFcc, lt, eq]

theorem orderedFcc_of_lt {a b : Int} (h : a < b) : orderedFcc a b = 1 := by
  rw [orderedFcc, if_neg h.ne, if_pos h]

theorem orderedFcc_of_gt {a b : Int} (h : b < a) : orderedFcc a b = 2 := by
  rw [orderedFcc, if_neg h.ne', if_neg h.not_gt]

/-- An infinity lies beyond the numbers of either sign. -/
theorem signedInt_between (neg : Bool) {k inf : Nat} (h : k < inf) :
    signedInt true inf < signedInt neg k ∧ signedInt neg k < signedInt false inf := by
  cases neg <;> simp only [signedInt, Bool.false_eq_true, if_false, if_true] <;> omega

theorem orderedFcc_inf_left (sign neg : Bool) {k inf : Nat} (h : k < inf) :
    orderedFcc (signedInt sign inf) (signedInt neg k) = if sign then 1 else 2 := by
  cases sign with
  | false => exact orderedFcc_of_gt (signedInt_between neg h).2
  | true => exact orderedFcc_of_lt (signedInt_between neg h).1

theorem orderedFcc_inf_right (neg sign : Bool) {k inf : Nat} (h : k < inf) :
    orderedFcc (signedInt neg k) (signedInt sign inf) = if sign then 2 else 1 := by
  cases sign with
  | false => exact orderedFcc_of_lt (signedInt_between neg h).2
  | true => exact orderedFcc_of_gt (signedInt_between neg h).1

theorem orderedFcc_inf_inf (na nb : Bool) {inf : Nat} (h : 0 < inf) :
    orderedFcc (signedInt na inf) (signedInt nb inf) = if na = nb then 0 else if na then 1 else 2 := by
  have apart : signedInt true inf < signedInt false inf := by
    simp only [signedInt, Bool.false_eq_true, if_false, if_true]
    omega
  cases na <;> cases nb
  · exact if_pos rfl
  · exact orderedFcc_of_gt apart
  · exact orderedFcc_of_lt apart
  · exact if_pos rfl

/-! ### R940 -/

theorem fcompare_unordered {unordered signaling : Bool} {p : Prop} [Decidable p] (nan : unordered = true)
    (hp : signaling = true ↔ p) {a b : Int} {q : Bool} :
    fcompare unordered signaling a b q = (3, if q = true ∨ p then 0x10 else 0) := by
  simp only [fcompare, if_pos nan, Bool.or_eq_true, hp, excNv]

theorem fcompare_ordered {unordered : Bool} (notNan : unordered = false) (signaling : Bool) (a b : Int) (q : Bool) :
    fcompare unordered signaling a b q = (orderedFcc a b, 0) := if_neg (by simp [notNan])

/-- The integer that R940's order is read from: sign and magnitude, with +0 = -0. -/
def Format.order (f : Format) (bits : BitVec 64) : Int := signedInt (f.sign bits) (f.magnitude bits)

/-- The clauses of R940 for two data that are not NaN, where `r` is what the compare gives for x and y, and -c is the
exponent of the smallest subnormal. -/
def Format.Compares (f : Format) (c : Int) (x y : BitVec 64) (r : BitVec 2 × BitVec 5) : Prop :=
  let scaled := fun (m : Nat) (e : Int) => m * 2 ^ (e + c).toNat
  (∀ na ma ea nb mb eb, f.unpack x = .fin na ma ea → f.unpack y = .fin nb mb eb →
    r = (orderedFcc (signedInt na (scaled ma ea)) (signedInt nb (scaled mb eb)), 0)) ∧
  (∀ na nb mb eb, f.unpack x = .inf na → f.unpack y = .fin nb mb eb → r = (if na then 1 else 2, 0)) ∧
  (∀ na ma ea nb, f.unpack x = .fin na ma ea → f.unpack y = .inf nb → r = (if nb then 2 else 1, 0)) ∧
  (∀ na nb, f.unpack x = .inf na → f.unpack y = .inf nb → r = (if na = nb then 0 else if na then 1 else 2, 0))

/-- A compare that orders the magnitudes as integers meets R940. -/
theorem compares_fcompare (f : Format) {c : Int} (hc : f.minExp = -c) (infPos : 0 < f.infBits) (x y : BitVec 64)
    (signaling q : Bool) :
    f.Compares c x y (fcompare (f.isNan x || f.isNan y) signaling (f.order x) (f.order y) q) := by
  have ordered (hx : f.magnitude x ≤ f.infBits) (hy : f.magnitude y ≤ f.infBits) :
      fcompare (f.isNan x || f.isNan y) signaling (f.order x) (f.order y) q =
        (orderedFcc (f.order x) (f.order y), 0) :=
    fcompare_ordered (by simp [Format.isNan, hx, hy]) ..
  refine ⟨?numbers, ?infNumber, ?numberInf, ?infinities⟩
  case numbers =>
    intro na ma ea nb mb eb hx hy
    obtain ⟨rfl, finX, valueX⟩ := of_unpack_fin hx
    obtain ⟨rfl, finY, valueY⟩ := of_unpack_fin hy
    have lt := signedInt_lt_iff (scaled_strictMono f) (scaled_zero f)
    rw [hc, sub_neg_eq_add] at valueX valueY
    simp only [valueX, valueY]
    rw [ordered finX.le finY.le, orderedFcc_congr (lt _ _ _ _) (lt _ _ _ _)]
    rfl
  case infNumber =>
    intro na nb mb eb hx hy
    obtain ⟨rfl, infX⟩ := of_unpack_inf hx
    obtain ⟨-, finY, -⟩ := of_unpack_fin hy
    rw [ordered infX.le finY.le, Format.order, Format.order, infX, orderedFcc_inf_left _ _ finY]
  case numberInf =>
    intro na ma ea nb hx hy
    obtain ⟨-, finX, -⟩ := of_unpack_fin hx
    obtain ⟨rfl, infY⟩ := of_unpack_inf hy
    rw [ordered finX.le infY.le, Format.order, Format.order, infY, orderedFcc_inf_right _ _ finX]
  case infinities =>
    intro na nb hx hy
    obtain ⟨rfl, infX⟩ := of_unpack_inf hx
    obtain ⟨rfl, infY⟩ := of_unpack_inf hy
    rw [ordered infX.le infY.le, Format.order, Format.order, infX, infY, orderedFcc_inf_inf _ _ infPos]

/-! ### The two formats -/

theorem isNanS_eq (a : Word) : isNanS a = binary32.isNan (a.zeroExtend 64) := by
  rw [Bool.eq_iff_iff, isNan_iff]
  have same : (a.zeroExtend 64).toNat = a.toNat := BitVec.toNat_setWidth_of_le (by decide)
  simp [isNanS, binary32, same, ← BitVec.toNat_inj, Nat.shiftRight_eq_div_pow]

theorem isNanD_eq (a : BitVec 64) : isNanD a = binary64.isNan a := by
  rw [Bool.eq_iff_iff, isNan_iff]
  simp [isNanD, binary64, ← BitVec.toNat_inj, Nat.shiftRight_eq_div_pow]

theorem orderS_eq (a : Word) : orderS a = binary32.order (a.zeroExtend 64) := by
  have sign : binary32.sign (a.zeroExtend 64) = a.msb := by
    simp [Format.sign, binary32, BitVec.msb_eq_getLsbD_last]
  have magnitude : binary32.magnitude (a.zeroExtend 64) = (a.extractLsb' 0 31).toNat := by
    simp [Format.magnitude, binary32]
  rw [Format.order, sign, magnitude]
  rfl

theorem orderD_eq (a : BitVec 64) : orderD a = binary64.order a := by
  have sign : binary64.sign a = a.msb := by simp [Format.sign, binary64, BitVec.msb_eq_getLsbD_last]
  have magnitude : binary64.magnitude a = (a.extractLsb' 0 63).toNat := by simp [Format.magnitude, binary64]
  rw [Format.order, sign, magnitude]
  rfl

/-- `fcompareS` asks of its operands what R940 asks of the data they stand for. -/
theorem fcompareS_eq (a b : Word) (q : Bool) :
    fcompareS a b q =
      fcompare (binary32.isNan (a.zeroExtend 64) || binary32.isNan (b.zeroExtend 64))
        (isSignalingS a || isSignalingS b) (binary32.order (a.zeroExtend 64)) (binary32.order (b.zeroExtend 64)) q := by
  rw [fcompareS, isNanS_eq, isNanS_eq, orderS_eq, orderS_eq]

/-- `fcompareD` asks of its operands what R940 asks of the data they stand for. -/
theorem fcompareD_eq (a b : BitVec 64) (q : Bool) :
    fcompareD a b q = fcompare (binary64.isNan a || binary64.isNan b) (isSignalingD a || isSignalingD b)
      (binary64.order a) (binary64.order b) q := by
  rw [fcompareD, isNanD_eq, isNanD_eq, orderD_eq, orderD_eq]

/-- Settles O43: both compares order sign and magnitude as an integer, which is the order of R940
(`compares_fcompare`); the patterns of a NaN are those that `isNanS` and `isNanD` test. -/
theorem compareFunction : Obligations.CompareFunction := by
  refine ⟨fun a b q => ?single, fun a b q => ?double⟩
  case single =>
    obtain ⟨numbers, infNumber, numberInf, infinities⟩ :=
      fcompareS_eq a b q ▸ compares_fcompare binary32 (c := 149) rfl (by decide) (a.zeroExtend 64) (b.zeroExtend 64) _ q
    refine ⟨numbers, infNumber, numberInf, infinities, fun nan => ?_⟩
    exact fcompare_unordered (by simpa [isNanS] using nan) (by simp [isSignalingS, isNanS])
  case double =>
    obtain ⟨numbers, infNumber, numberInf, infinities⟩ :=
      fcompareD_eq a b q ▸ compares_fcompare binary64 (c := 1074) rfl (by decide) a b _ q
    refine ⟨numbers, infNumber, numberInf, infinities, fun nan => ?_⟩
    exact fcompare_unordered (by simpa [isNanD] using nan) (by simp [isSignalingD, isNanD])

end Sys2Proof.Machine

/-! PROOF. The breakpoint table: what an entry found or not found means for add and delete, and the invariants they keep
(60_exceptions R1040 to R1042). -/

namespace Sys2Proof.Machine

namespace BreakpointTable

/-! ### Entries (R1040) -/

/-- The table has no entry of this kind at this address. -/
abbrev Vacant (t : BreakpointTable) (a : Word) (kind : BreakKind) : Prop :=
  ∀ e ∈ t.entries, ¬(e.addr = a ∧ e.kind = kind)

theorem match?_eq_none_iff (t : BreakpointTable) (a : Word) (kind : BreakKind) :
    t.match? a kind = none ↔ t.Vacant a kind := by
  simp [match?, Vacant, and_comm]

theorem match?_some {t : BreakpointTable} {a : Word} {kind : BreakKind} {e : BreakEntry}
    (h : t.match? a kind = some e) : e ∈ t.entries ∧ e.addr = a ∧ e.kind = kind := by
  have hfits := List.find?_some h
  simp only [Bool.and_eq_true, beq_iff_eq] at hfits
  exact ⟨List.mem_of_find?_eq_some h, hfits.symm⟩

/-- Address and kind determine an entry. -/
theorem wf.unique {capacity : Nat} {t : BreakpointTable} (h : t.wf capacity) {d e : BreakEntry}
    (hd : d ∈ t.entries) (he : e ∈ t.entries) (haddr : d.addr = e.addr) (hkind : d.kind = e.kind) : d = e := by
  obtain ⟨-, hpairs, -⟩ := h
  have hdiffer : t.entries.Pairwise fun b c => ¬(b.addr = c.addr ∧ b.kind = c.kind) := hpairs.imp And.right
  have hsymm : Std.Symm fun b c : BreakEntry => ¬(b.addr = c.addr ∧ b.kind = c.kind) :=
    ⟨fun _ _ hne heq => hne ⟨heq.1.symm, heq.2.symm⟩⟩
  by_contra hne
  exact hdiffer.forall hd he hne ⟨haddr, hkind⟩

theorem wf.match?_of_mem {capacity : Nat} {t : BreakpointTable} (h : t.wf capacity) {e : BreakEntry}
    (he : e ∈ t.entries) : t.match? e.addr e.kind = some e := by
  cases hm : t.match? e.addr e.kind with
  | none => exact absurd ⟨rfl, rfl⟩ ((match?_eq_none_iff ..).1 hm e he)
  | some d =>
    obtain ⟨hd, haddr, hkind⟩ := match?_some hm
    rw [h.unique hd he haddr hkind]

/-! ### Add (R1041) -/

/-- The table with an entry appended under the next serial. -/
def append (t : BreakpointTable) (a : Word) (kind : BreakKind) : BreakpointTable :=
  ⟨t.entries ++ [⟨t.nextSerial, a, kind⟩], t.nextSerial + 1⟩

theorem add_of_duplicate {capacity : Nat} {t : BreakpointTable} (h : t.wf capacity) {e : BreakEntry}
    (he : e ∈ t.entries) {addr : Word} (haddr : e.addr = alignWord addr) :
    t.add capacity addr e.kind = .error (.duplicate e.serial) := by
  rw [add, ← haddr, h.match?_of_mem he]

theorem add_of_full {capacity : Nat} {t : BreakpointTable} {addr : Word} {kind : BreakKind}
    (hvacant : t.Vacant (alignWord addr) kind) (hfull : t.entries.length = capacity) :
    t.add capacity addr kind = .error .capacity := by
  rw [add, (match?_eq_none_iff ..).2 hvacant]
  exact if_pos hfull

theorem add_of_room {capacity : Nat} {t : BreakpointTable} {addr : Word} {kind : BreakKind}
    (hvacant : t.Vacant (alignWord addr) kind) (hroom : t.entries.length ≠ capacity) :
    t.add capacity addr kind = .ok (t.nextSerial, t.append (alignWord addr) kind) := by
  rw [add, (match?_eq_none_iff ..).2 hvacant]
  exact if_neg hroom

/-- The next serial is above every serial of the table, so the new entry stands last in serial order. -/
theorem wf.append {capacity : Nat} {t : BreakpointTable} (h : t.wf capacity) {a : Word} {kind : BreakKind}
    (hvacant : t.Vacant a kind) (hroom : t.entries.length ≠ capacity) (ha : alignWord a = a) :
    (t.append a kind).wf capacity := by
  obtain ⟨hlength, hpairs, hentries⟩ := h
  refine ⟨?length, ?pairs, ?entries⟩
  case length =>
    rw [BreakpointTable.append, List.length_append, List.length_singleton]
    omega
  case pairs =>
    refine List.pairwise_append.2 ⟨hpairs, List.pairwise_singleton .., fun e he new hnew => ?_⟩
    obtain rfl := List.mem_singleton.1 hnew
    exact ⟨(hentries e he).1, hvacant e he⟩
  case entries =>
    intro e he
    obtain hold | hnew := List.mem_append.1 he
    · exact ⟨Nat.lt_succ_of_lt (hentries e hold).1, (hentries e hold).2⟩
    · obtain rfl := List.mem_singleton.1 hnew
      exact ⟨Nat.lt_succ_self _, ha⟩

/-! ### Delete (R1042) -/

/-- The table without the entries of a serial. -/
def without (t : BreakpointTable) (serial : Nat) : BreakpointTable :=
  { t with entries := t.entries.filter fun e => e.serial != serial }

theorem delete_of_absent {t : BreakpointTable} {serial : Nat} (h : ∀ e ∈ t.entries, e.serial ≠ serial) :
    t.delete serial = .error .notFound :=
  if_neg (by simpa using h)

theorem delete_of_present {t : BreakpointTable} {serial : Nat} (h : ∃ e ∈ t.entries, e.serial = serial) :
    t.delete serial = .ok (t.without serial) :=
  if_pos (by simpa using h)

/-- Every invariant of the table passes to a part of its entries in the same order. -/
theorem wf.without {capacity : Nat} {t : BreakpointTable} (h : t.wf capacity) (serial : Nat) :
    (t.without serial).wf capacity := by
  obtain ⟨hlength, hpairs, hentries⟩ := h
  exact ⟨(List.length_filter_le ..).trans hlength, hpairs.filter _, fun e he => hentries e (List.mem_of_mem_filter he)⟩

end BreakpointTable

/-! ### The host's requests -/

theorem State.addBreakpoint_of_ok {s : State} {addr : Word} {kind : BreakKind} {serial : Nat} {t : BreakpointTable}
    (h : s.bps.add s.cfg.bpCapacity addr kind = .ok (serial, t)) :
    s.addBreakpoint addr kind = .ok (serial, { s with bps := t }) := by
  rw [State.addBreakpoint, h]

theorem State.addBreakpoint_of_error {s : State} {addr : Word} {kind : BreakKind} {error : BreakError}
    (h : s.bps.add s.cfg.bpCapacity addr kind = .error error) :
    s.addBreakpoint addr kind = .error (.breakpoint error) := by
  rw [State.addBreakpoint, h]

theorem State.deleteBreakpoint_of_ok {s : State} {serial : Nat} {t : BreakpointTable}
    (h : s.bps.delete serial = .ok t) : s.deleteBreakpoint serial = .ok { s with bps := t } := by
  rw [State.deleteBreakpoint, h]

theorem State.deleteBreakpoint_of_error {s : State} {serial : Nat} {error : BreakError}
    (h : s.bps.delete serial = .error error) : s.deleteBreakpoint serial = .error (.breakpoint error) := by
  rw [State.deleteBreakpoint, h]

/-- Settles O60: the duplicate that add reports is the only entry at its address and kind; a new entry gets the highest
serial, and a deletion leaves a part of the table in its order, so both keep the invariants. -/
theorem breakpointRequests : Obligations.BreakpointRequests := by
  intro s addr kind serial hwf
  refine ⟨?duplicate, fun hvacant => ⟨?full, ?room⟩, ?absent, ?present⟩
  case duplicate =>
    rintro e he haddr rfl
    exact State.addBreakpoint_of_error (BreakpointTable.add_of_duplicate hwf he haddr)
  case full =>
    intro hfull
    exact State.addBreakpoint_of_error (BreakpointTable.add_of_full hvacant hfull)
  case room =>
    intro hroom
    exact ⟨_, State.addBreakpoint_of_ok (BreakpointTable.add_of_room hvacant hroom), rfl,
      hwf.append hvacant hroom (alignWord_idem addr)⟩
  case absent =>
    intro habsent
    exact State.deleteBreakpoint_of_error (BreakpointTable.delete_of_absent habsent)
  case present =>
    intro hpresent
    exact ⟨_, State.deleteBreakpoint_of_ok (BreakpointTable.delete_of_present hpresent), rfl, hwf.without serial⟩

end Sys2Proof.Machine

/-! PROOF. The decoder undoes the encoder, and gives only well-formed instructions (30_encoding R302, R320 to R325). -/

namespace Sys2Proof

/-! ### The fields of an encoded word (R302) -/

section
variable (op : BitVec 2) (rd rs1 rs2 : Reg) (op2 : BitVec 3) (op3 : BitVec 6) (opf : BitVec 9) (o : Op2)
  (imm22 : BitVec 22) (a : Bool) (cond : BitVec 4)

@[simp] theorem fields_encodeFormat3 :
    let w := encodeFormat3 op op3 rd rs1 o
    fieldOp w = op ∧ fieldRd w = rd ∧ fieldOp3 w = op3 ∧ fieldRs1 w = rs1 := by
  cases o <;> simp (disch := omega) only [fieldOp, fieldRd, fieldOp3, fieldRs1, encodeFormat3,
    BitVec.extractLsb'_append_eq_of_le, BitVec.extractLsb'_append_eq_of_add_le] <;> simp

/-- Bit 13 tells the two forms of the operand apart (R310). -/
@[simp] theorem fieldOperand_encodeFormat3 : fieldOperand (encodeFormat3 op op3 rd rs1 o) = o := by
  cases o <;> simp (disch := omega) only [fieldOperand, fieldRs2, encodeFormat3, BitVec.getLsbD_append,
    BitVec.extractLsb'_append_eq_of_add_le] <;> simp

@[simp] theorem fields_encodeFpop :
    let w := encodeFpop op3 rd rs1 opf rs2
    fieldOp w = 2 ∧ fieldRd w = rd ∧ fieldOp3 w = op3 ∧ fieldRs1 w = rs1 ∧ fieldOpf w = opf ∧ fieldRs2 w = rs2 := by
  simp (disch := omega) only [fieldOp, fieldRd, fieldOp3, fieldRs1, fieldOpf, fieldRs2, encodeFpop,
    BitVec.extractLsb'_append_eq_of_le, BitVec.extractLsb'_append_eq_of_add_le]
  simp

@[simp] theorem fields_encodeImm22 :
    let w := encodeImm22 rd op2 imm22
    fieldOp w = 0 ∧ fieldRd w = rd ∧ fieldOp2 w = op2 ∧ fieldImm22 w = imm22 := by
  simp (disch := omega) only [fieldOp, fieldRd, fieldOp2, fieldImm22, encodeImm22,
    BitVec.extractLsb'_append_eq_of_le, BitVec.extractLsb'_append_eq_of_add_le]
  simp

@[simp] theorem fields_encodeBranch :
    let w := encodeBranch op2 cond a imm22
    fieldOp w = 0 ∧ fieldA w = a ∧ fieldCond w = cond ∧ fieldOp2 w = op2 ∧ fieldImm22 w = imm22 := by
  simp (disch := omega) only [fieldOp, fieldA, fieldCond, fieldOp2, fieldImm22, encodeBranch, BitVec.getLsbD_append,
    BitVec.extractLsb'_append_eq_of_le, BitVec.extractLsb'_append_eq_of_add_le]
  simp

@[simp] theorem fields_encode_call (d : BitVec 30) : fieldOp (1#2 ++ d) = 1 ∧ fieldDisp30 (1#2 ++ d) = d :=
  ⟨BitVec.extractLsb'_append_eq_left, BitVec.extractLsb'_append_eq_right⟩

end

/-! ### The decoder by its leading fields -/

theorem decode_op_zero {w : Word} (h : fieldOp w = 0) : decode w = decodeFormat2 w := by rw [decode, h]; rfl

theorem decode_op_one {w : Word} (h : fieldOp w = 1) : decode w = .ok (.call (fieldDisp30 w)) := by rw [decode, h]; rfl

theorem decode_op_two {w : Word} (h : fieldOp w = 2) : decode w = decodeArith w := by rw [decode, h]; rfl

theorem decode_op_three {w : Word} (h : fieldOp w = 3) : decode w = decodeMem w := by rw [decode, h]; rfl

theorem decode_fpop1 {w : Word} (h : fieldOp w = 2) (h3 : fieldOp3 w = 0x34) : decode w = .ok (decodeFpop1 w) := by
  rw [decode_op_two h, decodeArith, h3]; rfl

theorem decode_fpop2 {w : Word} (h : fieldOp w = 2) (h3 : fieldOp3 w = 0x35) : decode w = .ok (decodeFpop2 w) := by
  rw [decode_op_two h, decodeArith, h3]; rfl

theorem decode_bicc {w : Word} (h : fieldOp w = 0) (h2 : fieldOp2 w = 2) :
    decode w = .ok (decodeBicc (fieldA w) (fieldCond w) (fieldImm22 w)) := by
  rw [decode_op_zero h, decodeFormat2, h2]; rfl

theorem decode_fbfcc {w : Word} (h : fieldOp w = 0) (h2 : fieldOp2 w = 6) :
    decode w = .ok (decodeFBfcc (fieldA w) (fieldCond w) (fieldImm22 w)) := by
  rw [decode_op_zero h, decodeFormat2, h2]; rfl

theorem decodeFpop1_unimplemented {w : Word} (h : fieldOpf w ∉ fpop1Opfs) :
    decodeFpop1 w = .fpop1Unimplemented (fieldRd w) (fieldRs1 w) (fieldOpf w) (fieldRs2 w) := by
  simp only [fpop1Opfs, List.mem_cons, List.not_mem_nil, or_false, not_or, ← BitVec.toNat_inj] at h
  unfold decodeFpop1
  split <;> simp_all

theorem decodeFpop2_unimplemented {w : Word} (h : fieldOpf w ∉ fpop2Opfs) :
    decodeFpop2 w = .fpop2Unimplemented (fieldRd w) (fieldRs1 w) (fieldOpf w) (fieldRs2 w) := by
  simp only [fpop2Opfs, List.mem_cons, List.not_mem_nil, or_false, not_or, ← BitVec.toNat_inj] at h
  unfold decodeFpop2
  split <;> simp_all

/-! ### Decoding an encoded instruction -/

theorem decode_encode {i : Instr} (h : i.wellFormed = true) : decode (encode i) = .ok i := by
  cases i with
  | add | addcc | addx | addxcc | sub | subcc | subx | subxcc | and | andcc | andn | andncc | or | orcc | orn | orncc
  | xor | xorcc | xnor | xnorcc | sll | srl | sra | taddcc | taddcctv | tsubcc | tsubcctv | mulscc | umul | smul
  | umulcc | smulcc | udiv | sdiv | udivcc | sdivcc | jmpl | rett | save | restore | rdy | rdpsr | rdwim | rdtbr | wry
  | wrpsr | wrwim | wrtbr | stbar | flush =>
    rw [encode, decode_op_two (by simp)]
    simp [decodeArith]
  | ldsb | ldsh | ldub | lduh | ld | ldd | stb | sth | st | std | ldstub | swap | ldf | lddf | ldfsr | stf | stdf
  | stfsr =>
    rw [encode, decode_op_three (by simp)]
    simp [decodeMem]
  | fmovs | fnegs | fabss | fsqrts | fsqrtd | fadds | faddd | fsubs | fsubd | fmuls | fmuld | fdivs | fdivd | fsmuld
  | fitos | fdtos | fitod | fstod | fstoi | fdtoi =>
    rw [encode, decode_fpop1 (by simp) (by simp)]
    simp [decodeFpop1]
  | fcmps | fcmpd | fcmpes | fcmped =>
    rw [encode, decode_fpop2 (by simp) (by simp)]
    simp [decodeFpop2]
  | fpop1Unimplemented =>
    rw [encode, decode_fpop1 (by simp) (by simp),
      decodeFpop1_unimplemented (by simpa [Instr.wellFormed] using h)]
    simp
  | fpop2Unimplemented =>
    rw [encode, decode_fpop2 (by simp) (by simp),
      decodeFpop2_unimplemented (by simpa [Instr.wellFormed] using h)]
    simp
  | ba | bn | bne | be | bg | ble | bge | bl | bgu | bleu | bcc | bcs | bpos | bneg | bvc | bvs =>
    rw [encode, decode_bicc (by simp) (by simp)]
    simp [decodeBicc]
  | fba | fbn | fbu | fbg | fbug | fbl | fbul | fblg | fbne | fbe | fbue | fbge | fbuge | fble | fbule | fbo =>
    rw [encode, decode_fbfcc (by simp) (by simp)]
    simp [decodeFBfcc]
  | unimp | nop =>
    rw [encode, decode_op_zero (by simp)]
    simp [decodeFormat2]
  | sethi rd imm22 =>
    have notNop : rd = 0 → imm22 ≠ 0 := by simpa [Instr.wellFormed, imp_iff_not_or] using h
    rw [encode, decode_op_zero (by simp)]
    simpa [decodeFormat2] using notNop
  | call disp30 =>
    rw [encode, decode_op_one (by simp)]
    simp

/-! ### What the decoder gives is well-formed -/

theorem wellFormed_decodeBicc (a : Bool) (cond : BitVec 4) (disp22 : BitVec 22) :
    (decodeBicc a cond disp22).wellFormed = true := by
  unfold decodeBicc; split <;> rfl

theorem wellFormed_decodeFBfcc (a : Bool) (cond : BitVec 4) (disp22 : BitVec 22) :
    (decodeFBfcc a cond disp22).wellFormed = true := by
  unfold decodeFBfcc; split <;> rfl

/-- A catch-all never has the opf of another row: the decoder has read those rows before it. -/
theorem wellFormed_decodeFpop1 (w : Word) : (decodeFpop1 w).wellFormed = true := by
  by_cases listed : fieldOpf w ∈ fpop1Opfs
  · simp only [fpop1Opfs, List.mem_cons, List.not_mem_nil, or_false, ← BitVec.toNat_inj] at listed
    unfold decodeFpop1
    split
    case h_21 => simp_all
    all_goals rfl
  · rw [decodeFpop1_unimplemented listed]
    simpa [Instr.wellFormed] using listed

theorem wellFormed_decodeFpop2 (w : Word) : (decodeFpop2 w).wellFormed = true := by
  by_cases listed : fieldOpf w ∈ fpop2Opfs
  · simp only [fpop2Opfs, List.mem_cons, List.not_mem_nil, or_false, ← BitVec.toNat_inj] at listed
    unfold decodeFpop2
    split
    case h_5 => simp_all
    all_goals rfl
  · rw [decodeFpop2_unimplemented listed]
    simpa [Instr.wellFormed] using listed

theorem wellFormed_decodeFormat2 {w : Word} {i : Instr} (h : decodeFormat2 w = .ok i) : i.wellFormed = true := by
  unfold decodeFormat2 at h
  split at h <;> cases h
  case h_1 => rfl
  case h_2 => exact wellFormed_decodeBicc ..
  case h_3 =>
    split_ifs with nop
    · rfl
    · simpa [Instr.wellFormed, imp_iff_not_or] using nop
  case h_4 => exact wellFormed_decodeFBfcc ..

theorem wellFormed_decodeArith {w : Word} {i : Instr} (h : decodeArith w = .ok i) : i.wellFormed = true := by
  unfold decodeArith at h
  split at h
  case h_37 => split_ifs at h <;> cases h <;> rfl
  case h_41 => split_ifs at h; cases h; rfl
  case h_45 => cases h; exact wellFormed_decodeFpop1 w
  case h_46 => cases h; exact wellFormed_decodeFpop2 w
  all_goals cases h
  all_goals rfl

theorem wellFormed_decodeMem {w : Word} {i : Instr} (h : decodeMem w = .ok i) : i.wellFormed = true := by
  unfold decodeMem at h
  split at h
  all_goals cases h
  all_goals rfl

theorem wellFormed_of_decode {w : Word} {i : Instr} (h : decode w = .ok i) : i.wellFormed = true := by
  unfold decode at h
  split at h
  · exact wellFormed_decodeFormat2 h
  · cases h; rfl
  · exact wellFormed_decodeArith h
  · exact wellFormed_decodeMem h

/-- Settles O1: every encoder puts each field where the decoder reads it (`decode_encode`), and the decoder reads NOP and
the rows of the FPops before SETHI and the catch-alls (`wellFormed_of_decode`). -/
theorem decodeEncode : Obligations.DecodeEncode :=
  ⟨fun _ h => decode_encode h, fun _ _ h => wellFormed_of_decode h⟩

/-- Settles O3: twelve closed words, which the decoder reads. -/
theorem decodedWords : Obligations.DecodedWords :=
  ⟨rfl, rfl, rfl, rfl, rfl, rfl, rfl, rfl, rfl, rfl, rfl, rfl⟩

end Sys2Proof

/-! PROOF. The decoder against the opcode table (30_encoding R325): the rows a word can match are those that agree with
its leading fields, and the decoder reads the same mnemonic from every word with those fields. -/

namespace Sys2Proof

/-! ### Words and masks field by field (R302) -/

/-- A word from its format-3 fields. -/
def format3 (op : BitVec 2) (rd : Reg) (op3 : BitVec 6) (rs1 : Reg) (opf : BitVec 9) (rs2 : Reg) : Word :=
  op ++ rd ++ op3 ++ rs1 ++ opf ++ rs2

/-- A word from its format-2 fields. -/
def format2 (op : BitVec 2) (a : BitVec 1) (cond : BitVec 4) (op2 : BitVec 3) (imm22 : BitVec 22) : Word :=
  op ++ a ++ cond ++ op2 ++ imm22

section
variable (w : Word)

theorem format3_fields :
    format3 (fieldOp w) (fieldRd w) (fieldOp3 w) (fieldRs1 w) (fieldOpf w) (fieldRs2 w) = w := by
  simp only [format3, fieldOp, fieldRd, fieldOp3, fieldRs1, fieldOpf, fieldRs2,
    BitVec.extractLsb'_append_extractLsb'_eq_extractLsb', BitVec.extractLsb'_eq_self]

theorem format2_fields :
    format2 (fieldOp w) (w.extractLsb' 29 1) (fieldCond w) (fieldOp2 w) (fieldImm22 w) = w := by
  simp only [format2, fieldOp, fieldCond, fieldOp2, fieldImm22,
    BitVec.extractLsb'_append_extractLsb'_eq_extractLsb', BitVec.extractLsb'_eq_self]

/-- A word of format 2 with a register, from its fields. -/
theorem encodeImm22_fields (h : fieldOp w = 0) : encodeImm22 (fieldRd w) (fieldOp2 w) (fieldImm22 w) = w := by
  have whole : fieldOp w ++ fieldRd w ++ fieldOp2 w ++ fieldImm22 w = w := by
    simp only [fieldOp, fieldRd, fieldOp2, fieldImm22, BitVec.extractLsb'_append_extractLsb'_eq_extractLsb',
      BitVec.extractLsb'_eq_self]
  rwa [h] at whole

theorem and_format3 (op : BitVec 2) (rd : Reg) (op3 : BitVec 6) (rs1 : Reg) (opf : BitVec 9) (rs2 : Reg) :
    w &&& format3 op rd op3 rs1 opf rs2 =
      format3 (fieldOp w &&& op) (fieldRd w &&& rd) (fieldOp3 w &&& op3) (fieldRs1 w &&& rs1) (fieldOpf w &&& opf)
        (fieldRs2 w &&& rs2) := by
  conv_lhs => rw [← format3_fields w]
  simp only [format3, ← BitVec.and_append]

theorem and_format2 (op : BitVec 2) (a : BitVec 1) (cond : BitVec 4) (op2 : BitVec 3) (imm22 : BitVec 22) :
    w &&& format2 op a cond op2 imm22 =
      format2 (fieldOp w &&& op) (w.extractLsb' 29 1 &&& a) (fieldCond w &&& cond) (fieldOp2 w &&& op2)
        (fieldImm22 w &&& imm22) := by
  conv_lhs => rw [← format2_fields w]
  simp only [format2, ← BitVec.and_append]

/-- The bits a row looks at that op and op3 tell apart. -/
theorem and_op3 : w &&& 0xC1F80000 = format3 (fieldOp w) 0 (fieldOp3 w) 0 0 0 := by
  rw [show (0xC1F80000 : Word) = format3 (.allOnes 2) 0 (.allOnes 6) 0 0 0 by decide, and_format3]
  simp only [BitVec.and_allOnes, BitVec.ofNat_eq_ofNat, BitVec.and_zero]

theorem and_op3_opf : w &&& 0xC1F83FE0 = format3 (fieldOp w) 0 (fieldOp3 w) 0 (fieldOpf w) 0 := by
  rw [show (0xC1F83FE0 : Word) = format3 (.allOnes 2) 0 (.allOnes 6) 0 (.allOnes 9) 0 by decide, and_format3]
  simp only [BitVec.and_allOnes, BitVec.ofNat_eq_ofNat, BitVec.and_zero]

theorem and_op3_rs1 : w &&& 0xC1FFC000 = format3 (fieldOp w) 0 (fieldOp3 w) (fieldRs1 w) 0 0 := by
  rw [show (0xC1FFC000 : Word) = format3 (.allOnes 2) 0 (.allOnes 6) (.allOnes 5) 0 0 by decide, and_format3]
  simp only [BitVec.and_allOnes, BitVec.ofNat_eq_ofNat, BitVec.and_zero]

theorem and_op3_rd : w &&& 0xFFF80000 = format3 (fieldOp w) (fieldRd w) (fieldOp3 w) 0 0 0 := by
  rw [show (0xFFF80000 : Word) = format3 (.allOnes 2) (.allOnes 5) (.allOnes 6) 0 0 0 by decide, and_format3]
  simp only [BitVec.and_allOnes, BitVec.ofNat_eq_ofNat, BitVec.and_zero]

theorem and_op3_rd_rs1 : w &&& 0xFFFFC000 = format3 (fieldOp w) (fieldRd w) (fieldOp3 w) (fieldRs1 w) 0 0 := by
  rw [show (0xFFFFC000 : Word) = format3 (.allOnes 2) (.allOnes 5) (.allOnes 6) (.allOnes 5) 0 0 by decide, and_format3]
  simp only [BitVec.and_allOnes, BitVec.ofNat_eq_ofNat, BitVec.and_zero]

theorem and_op2 : w &&& 0xC1C00000 = format2 (fieldOp w) 0 0 (fieldOp2 w) 0 := by
  rw [show (0xC1C00000 : Word) = format2 (.allOnes 2) 0 0 (.allOnes 3) 0 by decide, and_format2]
  simp only [BitVec.and_allOnes, BitVec.ofNat_eq_ofNat, BitVec.and_zero]

theorem and_op2_cond : w &&& 0xDFC00000 = format2 (fieldOp w) 0 (fieldCond w) (fieldOp2 w) 0 := by
  rw [show (0xDFC00000 : Word) = format2 (.allOnes 2) 0 (.allOnes 4) (.allOnes 3) 0 by decide, and_format2]
  simp only [BitVec.and_allOnes, BitVec.ofNat_eq_ofNat, BitVec.and_zero]

theorem and_op : w &&& 0xC0000000 = format2 (fieldOp w) 0 0 0 0 := by
  rw [show (0xC0000000 : Word) = format2 (.allOnes 2) 0 0 0 0 by decide, and_format2]
  simp only [BitVec.and_allOnes, BitVec.ofNat_eq_ofNat, BitVec.and_zero]

end

/-! ### The rows a word can match -/

/-- The rows whose pattern has the value v in the bits from `start` up. -/
def rowsAt (start : Nat) {len : Nat} (v : BitVec len) (rows : List OpcodeRow) : List OpcodeRow :=
  rows.filter fun r => r.pattern.extractLsb' start len == v

/-- Where every row looks at a field whole, a word matches a row with its own value there. -/
theorem matchRow_rowsAt {rows : List OpcodeRow} (start len : Nat)
    (whole : ∀ r ∈ rows, r.mask.extractLsb' start len = .allOnes len) (w : Word) :
    matchRow rows w = matchRow (rowsAt start (w.extractLsb' start len) rows) w := by
  rw [matchRow, matchRow, rowsAt, List.find?_filter]
  refine List.find?_congr fun r hr => ?_
  rw [Bool.eq_iff_iff]
  simp only [beq_iff_eq, decide_eq_true_iff]
  refine ⟨fun h => ⟨?_, h⟩, And.right⟩
  rw [← h, BitVec.extractLsb'_and, whole r hr, BitVec.and_allOnes]

theorem matchRow_append (rows rows' : List OpcodeRow) (w : Word) :
    matchRow (rows ++ rows') w = (matchRow rows w).or (matchRow rows' w) := List.find?_append

theorem matchRow_cons (r : OpcodeRow) (rows : List OpcodeRow) (w : Word) :
    matchRow (r :: rows) w = if w &&& r.mask = r.pattern then some r else matchRow rows w := by
  by_cases h : w &&& r.mask = r.pattern <;> simp [matchRow, h]

theorem matchRow_nil (w : Word) : matchRow [] w = none := rfl

/-- The rows of one value of op. -/
def opRows (op : BitVec 2) : List OpcodeRow := rowsAt 30 op opcodeTable

theorem matchRow_opcodeTable (w : Word) : matchRow opcodeTable w = matchRow (opRows (fieldOp w)) w :=
  matchRow_rowsAt 30 2 (by decide +kernel) w

/-- The mnemonic of the table's row. -/
def rowMnemonic (rows : List OpcodeRow) (w : Word) : Option String := (matchRow rows w).map OpcodeRow.mnemonic

/-- The mnemonic the decoder reads. -/
def readMnemonic (w : Word) : Option String := (decode w).toOption.map Instr.mnemonic

/-- The row of a mnemonic, if there is one. -/
def rowOf (mnemonic : Option String) (pattern mask : Word) : List OpcodeRow :=
  (mnemonic.map fun name => ⟨name, pattern, mask⟩).toList

theorem rowMnemonic_rowOf {w pattern mask : Word} (h : w &&& mask = pattern) (name : Option String) :
    rowMnemonic (rowOf name pattern mask) w = name := by
  cases name with
  | none => rfl
  | some name => simp [rowMnemonic, rowOf, matchRow_cons, h]

/-! ### Format 3: op3 tells the rows apart, but for RDY and STBAR, WRY, and the FPops -/

theorem rows_arith (op3 : BitVec 6) (h : op3 ∉ [0x28#6, 0x30, 0x34, 0x35]) :
    rowsAt 19 op3 (opRows 2) = rowOf (readMnemonic (format3 2 0 op3 0 0 0)) (format3 2 0 op3 0 0 0) 0xC1F80000 := by
  revert op3; decide +kernel

theorem rows_memory (op3 : BitVec 6) :
    rowsAt 19 op3 (opRows 3) = rowOf (readMnemonic (format3 3 0 op3 0 0 0)) (format3 3 0 op3 0 0 0) 0xC1F80000 := by
  revert op3; decide +kernel

theorem readMnemonic_memory_congr {w w' : Word} (h : fieldOp w = 3) (h' : fieldOp w' = 3)
    (e : fieldOp3 w = fieldOp3 w') : readMnemonic w = readMnemonic w' := by
  rw [readMnemonic, readMnemonic, decode_op_three h, decode_op_three h', decodeMem, decodeMem, e]
  generalize (fieldOp3 w').toNat = n
  split
  all_goals rfl

theorem readMnemonic_arith_congr {w w' : Word} (h : fieldOp w = 2) (h' : fieldOp w' = 2)
    (e : fieldOp3 w = fieldOp3 w') (h3 : fieldOp3 w ∉ [0x28#6, 0x30, 0x34, 0x35]) : readMnemonic w = readMnemonic w' := by
  rw [readMnemonic, readMnemonic, decode_op_two h, decode_op_two h', decodeArith, decodeArith, ← e]
  simp only [List.mem_cons, List.not_mem_nil, or_false, not_or, ← BitVec.toNat_inj] at h3
  obtain ⟨notRead, notWrite, notFpop1, notFpop2⟩ := h3
  generalize (fieldOp3 w).toNat = n at *
  split
  case h_37 => exact absurd rfl notRead
  case h_41 => exact absurd rfl notWrite
  case h_45 => exact absurd rfl notFpop1
  case h_46 => exact absurd rfl notFpop2
  all_goals rfl

@[simp] theorem fields_format3 (op : BitVec 2) (rd : Reg) (op3 : BitVec 6) (rs1 : Reg) (opf : BitVec 9) (rs2 : Reg) :
    let w := format3 op rd op3 rs1 opf rs2
    fieldOp w = op ∧ fieldOp3 w = op3 ∧ fieldOpf w = opf := by
  simp (disch := omega) only [fieldOp, fieldOp3, fieldOpf, format3, BitVec.extractLsb'_append_eq_of_le,
    BitVec.extractLsb'_append_eq_of_add_le]
  simp only [BitVec.extractLsb'_eq_self, Nat.reduceSub, and_self]

theorem format3_inj {op op' : BitVec 2} {rd rd' : Reg} {op3 op3' : BitVec 6} {rs1 rs1' : Reg} {opf opf' : BitVec 9}
    {rs2 rs2' : Reg} : format3 op rd op3 rs1 opf rs2 = format3 op' rd' op3' rs1' opf' rs2' ↔
      op = op' ∧ rd = rd' ∧ op3 = op3' ∧ rs1 = rs1' ∧ opf = opf' ∧ rs2 = rs2' := by
  change @Eq (BitVec (2 + 5 + 6 + 5 + 9 + 5)) (_ ++ _) (_ ++ _) ↔ _
  simp only [Machine.append_eq_append_iff, and_assoc]

section
variable {w : Word}

theorem rowMnemonic_opcodeTable (w : Word) : rowMnemonic opcodeTable w = rowMnemonic (opRows (fieldOp w)) w :=
  congrArg (Option.map OpcodeRow.mnemonic) (matchRow_opcodeTable w)

theorem rowMnemonic_rowsAt {rows : List OpcodeRow} (start len : Nat)
    (whole : ∀ r ∈ rows, r.mask.extractLsb' start len = .allOnes len) (w : Word) :
    rowMnemonic rows w = rowMnemonic (rowsAt start (w.extractLsb' start len) rows) w :=
  congrArg (Option.map OpcodeRow.mnemonic) (matchRow_rowsAt start len whole w)

theorem agrees_memory (h : fieldOp w = 3) : readMnemonic w = rowMnemonic (opRows 3) w := by
  rw [rowMnemonic_rowsAt 19 6 (by decide +kernel), ← fieldOp3, rows_memory,
    rowMnemonic_rowOf (by rw [and_op3, h])]
  exact readMnemonic_memory_congr h (by simp) (by simp)

theorem agrees_arith (h : fieldOp w = 2) (h3 : fieldOp3 w ∉ [0x28#6, 0x30, 0x34, 0x35]) :
    readMnemonic w = rowMnemonic (rowsAt 19 (fieldOp3 w) (opRows 2)) w := by
  rw [rows_arith _ h3, rowMnemonic_rowOf (by rw [and_op3, h])]
  exact readMnemonic_arith_congr h (by simp) (by simp) h3

/-! ### RDY, STBAR and WRY look at register fields as well (R321) -/

theorem rows_ancillaryRead : rowsAt 19 0x28#6 (opRows 2) =
    [⟨"RDY", format3 2 0 0x28 0 0 0, 0xC1FFC000⟩, ⟨"STBAR", format3 2 0 0x28 15 0 0, 0xFFFFC000⟩] := by decide +kernel

theorem agrees_ancillaryRead (h : fieldOp w = 2) (h3 : fieldOp3 w = 0x28) :
    readMnemonic w = rowMnemonic (rowsAt 19 0x28#6 (opRows 2)) w := by
  have read : decode w = if fieldRs1 w = 0 then .ok (.rdy (fieldRd w))
      else if fieldRs1 w = 15 ∧ fieldRd w = 0 then .ok .stbar else .error .ancillaryRegister := by
    rw [decode_op_two h, decodeArith, h3]; rfl
  rw [rows_ancillaryRead, readMnemonic, read, rowMnemonic, matchRow_cons, matchRow_cons, matchRow_nil, and_op3_rs1,
    and_op3_rd_rs1, h, h3]
  simp only [format3_inj, true_and, and_true]
  by_cases rdy : fieldRs1 w = 0
  · rw [if_pos rdy, if_pos rdy]; rfl
  · rw [if_neg rdy, if_neg rdy]
    by_cases stbar : fieldRs1 w = 15 ∧ fieldRd w = 0
    · rw [if_pos stbar, if_pos stbar.symm]; rfl
    · rw [if_neg stbar, if_neg (mt And.symm stbar)]; rfl

theorem rows_ancillaryWrite : rowsAt 19 0x30#6 (opRows 2) = [⟨"WRY", format3 2 0 0x30 0 0 0, 0xFFF80000⟩] := by
  decide +kernel

theorem agrees_ancillaryWrite (h : fieldOp w = 2) (h3 : fieldOp3 w = 0x30) :
    readMnemonic w = rowMnemonic (rowsAt 19 0x30#6 (opRows 2)) w := by
  have read : decode w =
      if fieldRd w = 0 then .ok (.wry (fieldRs1 w) (fieldOperand w)) else .error .ancillaryRegister := by
    rw [decode_op_two h, decodeArith, h3]; rfl
  rw [rows_ancillaryWrite, readMnemonic, read, rowMnemonic, matchRow_cons, matchRow_nil, and_op3_rd, h, h3]
  simp only [format3_inj, true_and, and_true]
  split_ifs <;> rfl

end

/-! ### The FPops: opf tells the rows apart, and the catch-all stands last -/

theorem rows_fpop1 : rowsAt 19 0x34#6 (opRows 2) =
    opcodeRowsFloat.take 20 ++ [⟨"FPOP1_UNIMPLEMENTED", format3 2 0 0x34 0 0 0, 0xC1F80000⟩] := by decide +kernel

theorem rows_fpop2 : rowsAt 19 0x35#6 (opRows 2) =
    (opcodeRowsFloat.drop 20).take 4 ++ [⟨"FPOP2_UNIMPLEMENTED", format3 2 0 0x35 0 0 0, 0xC1F80000⟩] := by
  decide +kernel

theorem rows_fpop1_opf (opf : BitVec 9) : rowsAt 5 opf (opcodeRowsFloat.take 20) =
    if opf ∈ fpop1Opfs then
      rowOf (some (decodeFpop1 (format3 2 0 0x34 0 opf 0)).mnemonic) (format3 2 0 0x34 0 opf 0) 0xC1F83FE0
    else [] := by
  revert opf; decide +kernel

theorem rows_fpop2_opf (opf : BitVec 9) : rowsAt 5 opf ((opcodeRowsFloat.drop 20).take 4) =
    if opf ∈ fpop2Opfs then
      rowOf (some (decodeFpop2 (format3 2 0 0x35 0 opf 0)).mnemonic) (format3 2 0 0x35 0 opf 0) 0xC1F83FE0
    else [] := by
  revert opf; decide +kernel

theorem mnemonic_decodeFpop1_congr {w w' : Word} (e : fieldOpf w = fieldOpf w') :
    (decodeFpop1 w).mnemonic = (decodeFpop1 w').mnemonic := by
  rw [decodeFpop1, decodeFpop1, e]
  generalize (fieldOpf w').toNat = n
  split
  all_goals rfl

theorem mnemonic_decodeFpop2_congr {w w' : Word} (e : fieldOpf w = fieldOpf w') :
    (decodeFpop2 w).mnemonic = (decodeFpop2 w').mnemonic := by
  rw [decodeFpop2, decodeFpop2, e]
  generalize (fieldOpf w').toNat = n
  split
  all_goals rfl

/-- The rows of one opf before the catch-all, which every word of the group matches. -/
theorem rowMnemonic_fpop {w : Word} {rows : List OpcodeRow} {op3 : BitVec 6} {name : String} {catchAll : String}
    {opfs : List (BitVec 9)} (h : fieldOp w = 2) (h3 : fieldOp3 w = op3)
    (whole : ∀ r ∈ rows, r.mask.extractLsb' 5 9 = .allOnes 9)
    (listed : rowsAt 5 (fieldOpf w) rows =
      if fieldOpf w ∈ opfs then rowOf (some name) (format3 2 0 op3 0 (fieldOpf w) 0) 0xC1F83FE0 else []) :
    rowMnemonic (rows ++ [⟨catchAll, format3 2 0 op3 0 0 0, 0xC1F80000⟩]) w =
      some (if fieldOpf w ∈ opfs then name else catchAll) := by
  have matches_catchAll : w &&& 0xC1F80000 = format3 2 0 op3 0 0 0 := by rw [and_op3, h, h3]
  rw [rowMnemonic, matchRow_append, Option.map_or, ← rowMnemonic, rowMnemonic_rowsAt 5 9 whole, ← fieldOpf, listed,
    matchRow_cons, if_pos matches_catchAll]
  split_ifs
  · rw [rowMnemonic_rowOf (by rw [and_op3_opf, h, h3])]; rfl
  · rfl

theorem agrees_fpop1 {w : Word} (h : fieldOp w = 2) (h3 : fieldOp3 w = 0x34) :
    readMnemonic w = rowMnemonic (rowsAt 19 0x34#6 (opRows 2)) w := by
  rw [rows_fpop1, rowMnemonic_fpop h h3 (by decide +kernel) (rows_fpop1_opf _), readMnemonic, decode_fpop1 h h3]
  split_ifs with listed
  · exact congrArg some (mnemonic_decodeFpop1_congr (by simp))
  · rw [decodeFpop1_unimplemented listed]; rfl

theorem agrees_fpop2 {w : Word} (h : fieldOp w = 2) (h3 : fieldOp3 w = 0x35) :
    readMnemonic w = rowMnemonic (rowsAt 19 0x35#6 (opRows 2)) w := by
  rw [rows_fpop2, rowMnemonic_fpop h h3 (by decide +kernel) (rows_fpop2_opf _), readMnemonic, decode_fpop2 h h3]
  split_ifs with listed
  · exact congrArg some (mnemonic_decodeFpop2_congr (by simp))
  · rw [decodeFpop2_unimplemented listed]; rfl

/-! ### Format 2: op2 tells the rows apart, cond those of the branches, and NOP is one word of SETHI -/

theorem rows_bicc (cond : BitVec 4) : rowsAt 25 cond (rowsAt 22 2#3 (opRows 0)) =
    rowOf (some (decodeBicc false cond 0).mnemonic) (format2 0 0 cond 2 0) 0xDFC00000 := by
  revert cond; decide +kernel

theorem rows_fbfcc (cond : BitVec 4) : rowsAt 25 cond (rowsAt 22 6#3 (opRows 0)) =
    rowOf (some (decodeFBfcc false cond 0).mnemonic) (format2 0 0 cond 6 0) 0xDFC00000 := by
  revert cond; decide +kernel

theorem mnemonic_decodeBicc_congr (a a' : Bool) (cond : BitVec 4) (d d' : BitVec 22) :
    (decodeBicc a cond d).mnemonic = (decodeBicc a' cond d').mnemonic := by
  rw [decodeBicc, decodeBicc]
  generalize cond.toNat = n
  split
  all_goals rfl

theorem mnemonic_decodeFBfcc_congr (a a' : Bool) (cond : BitVec 4) (d d' : BitVec 22) :
    (decodeFBfcc a cond d).mnemonic = (decodeFBfcc a' cond d').mnemonic := by
  rw [decodeFBfcc, decodeFBfcc]
  generalize cond.toNat = n
  split
  all_goals rfl

theorem agrees_bicc {w : Word} (h : fieldOp w = 0) (h2 : fieldOp2 w = 2) :
    readMnemonic w = rowMnemonic (rowsAt 22 2#3 (opRows 0)) w := by
  rw [rowMnemonic_rowsAt 25 4 (by decide +kernel), ← fieldCond, rows_bicc,
    rowMnemonic_rowOf (by rw [and_op2_cond, h, h2]), readMnemonic, decode_bicc h h2]
  exact congrArg some (mnemonic_decodeBicc_congr ..)

theorem agrees_fbfcc {w : Word} (h : fieldOp w = 0) (h2 : fieldOp2 w = 6) :
    readMnemonic w = rowMnemonic (rowsAt 22 6#3 (opRows 0)) w := by
  rw [rowMnemonic_rowsAt 25 4 (by decide +kernel), ← fieldCond, rows_fbfcc,
    rowMnemonic_rowOf (by rw [and_op2_cond, h, h2]), readMnemonic, decode_fbfcc h h2]
  exact congrArg some (mnemonic_decodeFBfcc_congr ..)

theorem rows_sethi : rowsAt 22 4#3 (opRows 0) =
    [⟨"NOP", encodeImm22 0 4 0, 0xFFFFFFFF⟩, ⟨"SETHI", format2 0 0 0 4 0, 0xC1C00000⟩] := by decide +kernel

theorem encodeImm22_inj {rd rd' : Reg} {op2 op2' : BitVec 3} {imm22 imm22' : BitVec 22} :
    encodeImm22 rd op2 imm22 = encodeImm22 rd' op2' imm22' ↔ rd = rd' ∧ op2 = op2' ∧ imm22 = imm22' := by
  change @Eq (BitVec (2 + 5 + 3 + 22)) (_ ++ _) (_ ++ _) ↔ _
  simp only [Machine.append_eq_append_iff, true_and, and_assoc]

theorem agrees_sethi {w : Word} (h : fieldOp w = 0) (h2 : fieldOp2 w = 4) :
    readMnemonic w = rowMnemonic (rowsAt 22 4#3 (opRows 0)) w := by
  have read : decode w = .ok (if fieldRd w = 0 ∧ fieldImm22 w = 0 then .nop else .sethi (fieldRd w) (fieldImm22 w)) := by
    rw [decode_op_zero h, decodeFormat2, h2]; rfl
  have nop : w &&& 0xFFFFFFFF = encodeImm22 0 4 0 ↔ fieldRd w = 0 ∧ fieldImm22 w = 0 := by
    rw [show (0xFFFFFFFF : Word) = .allOnes 32 from rfl, BitVec.and_allOnes]
    conv_lhs => rw [← encodeImm22_fields w h, encodeImm22_inj, h2]
    simp only [true_and]
  have sethi : w &&& 0xC1C00000 = format2 0 0 0 4 0 := by rw [and_op2, h, h2]
  rw [rows_sethi, readMnemonic, read, rowMnemonic, matchRow_cons, matchRow_cons, if_pos sethi]
  by_cases isNop : fieldRd w = 0 ∧ fieldImm22 w = 0
  · rw [if_pos isNop, if_pos (nop.2 isNop)]; rfl
  · rw [if_neg isNop, if_neg (mt nop.1 isNop)]; rfl

theorem rows_unimp : rowsAt 22 0#3 (opRows 0) = [⟨"UNIMP", format2 0 0 0 0 0, 0xC1C00000⟩] := by decide +kernel

theorem rows_unassigned (op2 : BitVec 3) (h : op2 ∉ [0#3, 2, 4, 6]) : rowsAt 22 op2 (opRows 0) = [] := by
  revert op2; decide +kernel

theorem agrees_unimp {w : Word} (h : fieldOp w = 0) (h2 : fieldOp2 w = 0) :
    readMnemonic w = rowMnemonic (rowsAt 22 0#3 (opRows 0)) w := by
  rw [rows_unimp, rowMnemonic, matchRow_cons, if_pos (by rw [and_op2, h, h2]), readMnemonic, decode_op_zero h,
    decodeFormat2, h2]
  rfl

/-- The words of format 2 with no instruction: CBccc and the unassigned op2. -/
theorem agrees_unassigned {w : Word} (h : fieldOp w = 0) (h2 : fieldOp2 w ∉ [0#3, 2, 4, 6]) :
    readMnemonic w = rowMnemonic (rowsAt 22 (fieldOp2 w) (opRows 0)) w := by
  rw [rows_unassigned _ h2, readMnemonic, decode_op_zero h, decodeFormat2]
  simp only [List.mem_cons, List.not_mem_nil, or_false, not_or, ← BitVec.toNat_inj] at h2
  obtain ⟨notUnimp, notBicc, notSethi, notFBfcc⟩ := h2
  split
  case h_1 hop2 => exact absurd hop2 notUnimp
  case h_2 hop2 => exact absurd hop2 notBicc
  case h_3 hop2 => exact absurd hop2 notSethi
  case h_4 hop2 => exact absurd hop2 notFBfcc
  all_goals rfl

/-! ### The four values of op -/

theorem agrees_format2 {w : Word} (h : fieldOp w = 0) : readMnemonic w = rowMnemonic (opRows 0) w := by
  rw [rowMnemonic_rowsAt 22 3 (by decide +kernel), ← fieldOp2]
  by_cases listed : fieldOp2 w ∈ [0#3, 2, 4, 6]
  · simp only [List.mem_cons, List.not_mem_nil, or_false] at listed
    obtain h2 | h2 | h2 | h2 := listed <;> rw [h2]
    · exact agrees_unimp h h2
    · exact agrees_bicc h h2
    · exact agrees_sethi h h2
    · exact agrees_fbfcc h h2
  · exact agrees_unassigned h listed

theorem agrees_format3 {w : Word} (h : fieldOp w = 2) : readMnemonic w = rowMnemonic (opRows 2) w := by
  rw [rowMnemonic_rowsAt 19 6 (by decide +kernel), ← fieldOp3]
  by_cases listed : fieldOp3 w ∈ [0x28#6, 0x30, 0x34, 0x35]
  · simp only [List.mem_cons, List.not_mem_nil, or_false] at listed
    obtain h3 | h3 | h3 | h3 := listed <;> rw [h3]
    · exact agrees_ancillaryRead h h3
    · exact agrees_ancillaryWrite h h3
    · exact agrees_fpop1 h h3
    · exact agrees_fpop2 h h3
  · exact agrees_arith h listed

theorem rows_call : opRows 1 = [⟨"CALL", format2 1 0 0 0 0, 0xC0000000⟩] := by decide +kernel

theorem agrees_call {w : Word} (h : fieldOp w = 1) : readMnemonic w = rowMnemonic (opRows 1) w := by
  rw [rows_call, rowMnemonic, matchRow_cons, if_pos (by rw [and_op, h]), readMnemonic, decode_op_one h]
  rfl

/-- Settles O2: op leaves the rows of one format; op3, op2, opf and cond then leave one row, or none, or one before a
catch-all, and the decoder reads the same field. -/
theorem decodeAgreesWithTable : Obligations.DecodeAgreesWithTable := by
  intro w
  have ops : ∀ op : BitVec 2, op = 0 ∨ op = 1 ∨ op = 2 ∨ op = 3 := by decide
  have agrees : readMnemonic w = rowMnemonic (opRows (fieldOp w)) w := by
    obtain h | h | h | h := ops (fieldOp w) <;> rw [h]
    · exact agrees_format2 h
    · exact agrees_call h
    · exact agrees_format3 h
    · exact agrees_memory h
  exact agrees.trans (rowMnemonic_opcodeTable w).symm

end Sys2Proof

/-! PROOF. What every step keeps (10_state R103, R108, R109, R112, R121; 20_memory R201, R203, R205; 60_exceptions R1020):
each from the three ways an instruction can end, `Ran`. -/

namespace Sys2Proof.Machine

/-! ### The three ways a step can end -/

/-- A step that gives a next state ran an instruction; around it the step writes `last` and `report` alone. -/
theorem ran_of_step {s t : State} (h : step s = .next t) : ∃ u, Ran s u ∧ t = finish s u := by
  obtain ⟨i, u, -, hexec, rfl⟩ := step_next h
  exact ⟨u, exec_ran hexec, rfl⟩

/-- A property that does not look at `last` and `report` passes from the instruction to the step. -/
theorem of_ran_of_step {s t : State} {P : State → Prop} (h : step s = .next t) (run : ∀ u, Ran s u → P u)
    (blind : ∀ u l r, P u → P { u with last := l, report := r } := by exact fun _ _ _ => id) : P t := by
  obtain ⟨u, hran, rfl⟩ := ran_of_step h
  obtain ⟨l, r, heq⟩ := finish_eq s u
  rw [heq]
  exact blind u l r (run u hran)

theorem TrapFsr.ver {old v : Word} (h : TrapFsr old v) : Fsr.ver v = Fsr.ver old := by
  obtain rfl | ⟨e, -, rfl⟩ | rfl := h <;> simp

theorem TrapFsr.qne {old v : Word} (h : TrapFsr old v) : Fsr.qne v = Fsr.qne old := by
  obtain rfl | ⟨e, -, rfl⟩ | rfl := h <;> simp

namespace Ran
variable {s u : State}

theorem cfg (h : Ran s u) : u.cfg = s.cfg := by
  cases h with
  | completed h => exact h.cfg
  | trapped => rfl
  | stopped => rfl

theorem bps (h : Ran s u) : u.bps = s.bps := by
  cases h with
  | completed h => exact h.bps
  | trapped => rfl
  | stopped => rfl

theorem viewOverride (h : Ran s u) : u.viewOverride = s.viewOverride := by
  cases h with
  | completed h => exact h.viewOverride
  | trapped => rfl
  | stopped => rfl

theorem psrImpl (h : Ran s u) : Psr.impl u.psr = Psr.impl s.psr := by
  cases h with
  | completed h => exact h.impl
  | trapped => exact Psr.impl_enterTrap ..
  | stopped => rfl

theorem psrVer (h : Ran s u) : Psr.ver u.psr = Psr.ver s.psr := by
  cases h with
  | completed h => exact h.ver
  | trapped => exact Psr.ver_enterTrap ..
  | stopped => rfl

theorem fsrVer (h : Ran s u) : Fsr.ver u.fsr = Fsr.ver s.fsr := by
  cases h with
  | completed h => exact h.fsrVer
  | trapped t ht v hv => exact hv.ver
  | stopped t ht v hv => exact hv.ver

theorem fsrQne (h : Ran s u) : Fsr.qne u.fsr = Fsr.qne s.fsr := by
  cases h with
  | completed h => exact h.fsrQne
  | trapped t ht v hv => exact hv.qne
  | stopped t ht v hv => exact hv.qne

/-- A trap writes no memory. -/
theorem wrote (h : Ran s u) : Wrote s u := by
  cases h with
  | completed h => exact h.wrote
  | trapped => exact .inl ⟨rfl, rfl⟩
  | stopped => exact .inl ⟨rfl, rfl⟩

/-- Trap entry moves to the window before the current one, which exists. -/
theorem shaped (h : Ran s u) (hs : s.Shaped) : u.Shaped := by
  obtain ⟨legal, length, window⟩ := hs
  refine ⟨h.cfg ▸ legal, ?_, ?_⟩
  · rw [h.cfg, ← length]
    cases h with
    | completed h => exact h.length
    | trapped => exact takeTrap_w_length ..
    | stopped => rfl
  · rw [h.cfg]
    cases h with
    | completed h => exact h.window ⟨legal, length, window⟩
    | trapped t ht v =>
      rw [window_takeTrap]
      exact previousWindow_lt (s := s.setFsr v) legal
    | stopped => exact window

/-- A trap goes to its entry of the table, whose entries are sixteen bytes each. -/
theorem pcAligned (h : Ran s u) (hs : s.PcAligned) : u.PcAligned := by
  cases h with
  | completed h => exact h.aligned hs
  | trapped t =>
    have entry := entry_mod_four s.tbr t.tt
    exact ⟨(alignWord_eq_iff _).2 entry, (alignWord_eq_iff _).2 (add_mod_four entry rfl)⟩
  | stopped => exact hs

end Ran

/-- One aligned write keeps the memory invariant. -/
theorem Wrote.memoryGood {s t : State} (h : Wrote s t) (legal : s.cfg.Legal) (hcfg : t.cfg = s.cfg)
    (hs : s.MemoryGood) : t.MemoryGood := by
  rw [State.MemoryGood, hcfg]
  obtain ⟨hmem, -⟩ | ⟨a, bytes, hlength, haligned, hwrite, -⟩ := h
  · rw [hmem]
    exact hs
  · obtain ⟨wf, allocated, within⟩ := hs
    exact ⟨wf_write wf hwrite, allocated_write legal allocated hlength haligned hwrite, within_write within hwrite⟩

/-- Settles O48, by the three ways an instruction can end. -/
theorem shapeIsInvariant : Obligations.ShapeIsInvariant :=
  fun _ _ hs h => of_ran_of_step h fun _ run => run.shaped hs

/-- Settles O49, by the three ways an instruction can end. -/
theorem countersStayAligned : Obligations.CountersStayAligned :=
  fun _ _ hs h => of_ran_of_step h fun _ run => run.pcAligned hs

/-- Settles O50: the only change of memory is one aligned write. -/
theorem memoryIsInvariant : Obligations.MemoryIsInvariant :=
  fun _ _ legal hs h => of_ran_of_step h fun _ run => run.wrote.memoryGood legal run.cfg hs

/-- Settles O55, by the three ways an instruction can end. -/
theorem readOnlyFields : Obligations.ReadOnlyFields := by
  intro s t h
  obtain ⟨u, run, rfl⟩ := ran_of_step h
  obtain ⟨l, r, written⟩ := finish_eq s u
  rw [written]
  exact ⟨run.cfg, run.viewOverride, run.bps, run.psrImpl, run.psrVer, run.fsrVer, run.fsrQne⟩

/-! ### The bytes a step changes -/

/-- What one data write, or none, makes of the bytes and of the allocation. -/
def State.WritesMemory (s t : State) : Prop :=
  t.writes.length ≤ 1 ∧
    (∀ a, (∀ d ∈ t.writes, ¬Stored d.addr d.bytes.length a) → t.mem.byte a = s.mem.byte a) ∧
    (∀ d ∈ t.writes, aligned d.addr d.bytes.length = true ∧
      ∀ k (h : k < d.bytes.length), t.mem.byte (d.addr + BitVec.ofNat 32 k) = d.bytes[k]) ∧
    (t.writes = [] → t.mem.l2 = s.mem.l2 ∧ t.mem.pages = s.mem.pages) ∧
    (∀ n ∈ s.mem.l2, n ∈ t.mem.l2) ∧ ∀ n ∈ s.mem.pages, n ∈ t.mem.pages

theorem Wrote.writesMemory {s t : State} (h : Wrote s t) : s.WritesMemory t := by
  obtain ⟨hmem, hnone⟩ | ⟨a, bytes, hlength, haligned, hwrite, hone⟩ := h
  · simp [State.WritesMemory, hmem, hnone]
  · have small : bytes.length ≤ 2 ^ 32 := by omega
    simp only [State.WritesMemory, hone, List.forall_mem_singleton]
    refine ⟨le_rfl, fun b hb => byte_write_outside hwrite small hb, ⟨haligned, fun k hk => ?_⟩, nofun, fun n hn => ?_,
      fun n hn => ?_⟩
    · rw [write_ok hwrite, byte_storeBytes_stored _ _ _ small _ hk, List.getD_eq_getElem _ _ hk]
    · rw [write_ok hwrite, storeBytes_l2]
      exact (mem_insertNumber ..).2 (.inr hn)
    · rw [write_ok hwrite, storeBytes_pages]
      exact (mem_insertNumber ..).2 (.inr hn)

/-- Settles O51: memory changes by the one write of `Wrote` alone, which allocates and never frees. -/
theorem memoryChangesOnlyByTheWrite : Obligations.MemoryChangesOnlyByTheWrite :=
  fun s _ h => of_ran_of_step (P := s.WritesMemory) h fun _ run => run.wrote.writesMemory

/-! ### User mode (60_exceptions R1020, R1021) -/

theorem finish_takeTrap (s v : State) (tt : BitVec 8) :
    finish s (takeTrap tt v) = { takeTrap tt v with last := ⟨true, s.fetchAddr, s.fetchWord⟩ } := rfl

theorem finish_enterErrorMode (s v : State) (tt : BitVec 8) :
    finish s (enterErrorMode tt v) = enterErrorMode tt v := rfl

/-- Settles O56: an instruction that completes in user mode keeps WIM, the TBR and all of the PSR but icc and cwp, s among
it; a trap reports itself, and error mode keeps the PSR. -/
theorem userModeIsConfined : Obligations.UserModeIsConfined := by
  intro s t user h
  obtain ⟨u, run, rfl⟩ := ran_of_step h
  cases run with
  | completed done =>
    rw [finish_of_continued s done.report]
    obtain ⟨hwim, htbr, hpsr⟩ := done.user user
    refine ⟨fun _ _ => ⟨hwim, htbr, hpsr⟩, fun supervisor => ?_⟩
    have same : Psr.s u.psr = Psr.s s.psr := congrArg PsrFields.s hpsr
    exact absurd (same.symm.trans supervisor) (by simp [user])
  | trapped trap =>
    rw [finish_takeTrap]
    exact ⟨fun none _ => absurd rfl (none trap.tt), fun _ => ⟨trap.tt, rfl⟩⟩
  | stopped trap =>
    rw [finish_enterErrorMode]
    exact ⟨fun _ none => absurd rfl (none trap.tt), fun supervisor => absurd (user.symm.trans supervisor) (by decide)⟩

/-! ### The power-on state (10_state R156) -/

theorem powerOn_memoryGood (c : Config) : (State.powerOn c).MemoryGood :=
  ⟨wf_powerOn c, ⟨nofun, nofun⟩, fun _ _ => Nat.zero_le _, fun _ _ => Nat.zero_le _⟩

theorem powerOn_shaped {c : Config} (h : c.Legal) : (State.powerOn c).Shaped :=
  ⟨h, List.length_replicate, show 0 < c.nwindows by have := h.1; omega⟩

/-- Settles O53: at power-on every counter, the window and memory are at their reset values. -/
theorem resetMeetsInvariants : Obligations.ResetMeetsInvariants :=
  ⟨fun c h => ⟨powerOn_shaped h, ⟨show alignWord 0 = 0 by decide, show alignWord 4 = 4 by decide⟩,
    powerOn_memoryGood c⟩, by decide, rfl, rfl⟩

end Sys2Proof.Machine

/-! PROOF. The outcomes of a step: its gates and its pre-check, the stages around the execute stage, the report of a
watched write, and `continue` (40_execution_engine R401 to R416, R430, R450; 60_exceptions R1011, R1013, R1046). -/

namespace Sys2Proof.Machine

/-! ### The gates and the decode stage (40_execution_engine R402, R411, R412) -/

theorem decodeBytes_bytesOfWord (w : Word) : decodeBytes (bytesOfWord w) = decode w :=
  congrArg decode (wordOfBytes_bytesOfWord w)

theorem decodeStage_of_decode {c : Config} {w : Word} {i : Instr} (h : decode w = .ok i) :
    decodeStage c w = if admitted c i && !isUnimp i then some i else none := by
  rw [decodeStage, decodeBytes_bytesOfWord, h]

theorem decodeStage_of_error {c : Config} {w : Word} {e : Unrecognised} (h : decode w = .error e) :
    decodeStage c w = none := by
  rw [decodeStage, decodeBytes_bytesOfWord, h]

/-- An implemented instruction other than UNIMP is recognised. -/
theorem decodeStage_of_implemented {c : Config} {w : Word} {i : Instr} (h : decode w = .ok i)
    (implemented : i.mnemonic ∉ c.notImplemented) (notUnimp : ∀ n, i ≠ .unimp n) : decodeStage c w = some i := by
  have legal : isUnimp i = false := by
    cases i with
    | unimp n => exact absurd rfl (notUnimp n)
    | _ => rfl
  rw [decodeStage_of_decode h, admitted, legal]
  simp [implemented]

theorem frontEnd_of_errorMode {s : State} (h : s.errorMode = true) :
    frontEnd s = .error (.errorMode (Tbr.tt s.tbr)) := by
  rw [frontEnd, if_pos h]

theorem frontEnd_of_invalidWindow {s : State} (h : s.errorMode = false) (hw : s.cfg.nwindows ≤ s.window) :
    frontEnd s = .error (.invalidWindow (Psr.cwp s.psr)) := by
  rw [frontEnd, if_neg (by simp [h]), if_pos hw]

theorem frontEnd_of_unrecognised {s : State} (h : s.Live) (hd : decodeStage s.cfg s.fetchWord = none) :
    frontEnd s = .error (.illegalInstruction s.fetchAddr s.fetchWord) := by
  rw [frontEnd, if_neg (by simp [h.1]), if_neg (Nat.not_le.2 h.2), hd]

theorem frontEnd_of_breakpoint {s : State} {i : Instr} {e : BreakEntry} (h : s.Live)
    (hd : decodeStage s.cfg s.fetchWord = some i) (hb : s.bps.matchExecution s.fetchAddr = some e) :
    frontEnd s = .error (.breakpoint e.serial) := by
  rw [frontEnd, if_neg (by simp [h.1]), if_neg (Nat.not_le.2 h.2), hd]
  simp only [hb]

theorem frontEnd_of_recognised {s : State} {i : Instr} (h : s.Live) (hd : decodeStage s.cfg s.fetchWord = some i)
    (hb : s.Unbroken) : frontEnd s = .ok i := by
  rw [frontEnd, if_neg (by simp [h.1]), if_neg (Nat.not_le.2 h.2), hd]
  simp only [show s.bps.matchExecution s.fetchAddr = none from hb]

/-- A gate of an open core never answers with error mode. -/
theorem frontEnd_errorMode {s : State} {tt : BitVec 8} (h : frontEnd s = .error (.errorMode tt)) :
    s.errorMode = true := by
  by_contra open'
  have closed : s.errorMode = false := by simpa using open'
  rcases Nat.lt_or_ge s.window s.cfg.nwindows with hw | hw
  · cases hd : decodeStage s.cfg s.fetchWord with
    | none => cases (frontEnd_of_unrecognised ⟨closed, hw⟩ hd).symm.trans h
    | some i =>
      cases hb : s.bps.matchExecution s.fetchAddr with
      | none => cases (frontEnd_of_recognised ⟨closed, hw⟩ hd hb).symm.trans h
      | some e => cases (frontEnd_of_breakpoint ⟨closed, hw⟩ hd hb).symm.trans h
  · cases (frontEnd_of_invalidWindow closed hw).symm.trans h

/-! ### The execute stage (R416) -/

theorem step_of_frontEnd_error {s : State} {f : Fault} (h : frontEnd s = .error f) : step s = .fault f := by
  rw [step, stepWith, h]

theorem step_of_next {s t : State} {i : Instr} (h : frontEnd s = .ok i) (he : exec i s = .next t) :
    step s = .next (finish s t) := by
  rw [step, stepWith, h]
  simp only [he]

theorem step_of_fault {s : State} {i : Instr} {f : Fault} (h : frontEnd s = .ok i) (he : exec i s = .fault f) :
    step s = .fault f := by
  rw [step, stepWith, h]
  simp only [he]

theorem stepOutcome_of_fault {s : State} {f : Fault} (h : step s = .fault f) : stepOutcome s = .ok (f.report, s) := by
  rw [stepOutcome, h]

theorem stepOutcome_of_next {s t : State} (h : step s = .next t) : stepOutcome s = .ok (t.report, t) := by
  rw [stepOutcome, h]

/-- Settles O4: a recognised word passes the front of the step; the rest of the step is `finish`. -/
theorem stepRunsTheDecodedInstruction : Obligations.StepRunsTheDecodedInstruction := by
  intro s i live unbroken hdecode implemented notUnimp
  have front := frontEnd_of_recognised live (decodeStage_of_implemented hdecode implemented notUnimp) unbroken
  refine ⟨fun f hf => step_of_fault front hf, fun t ht => ⟨_, step_of_next front ht, ?unwatched, ?watched, ?stopped⟩⟩
  case unwatched =>
    intro trap hrep hwatch
    rw [finish_of_continued s hrep, hwatch, ← hrep]
    rfl
  case watched =>
    intro trap hit hrep hwatch
    rw [finish_of_continued s hrep, hwatch]
    rfl
  case stopped =>
    intro tt hrep
    exact finish_of_errorMode s hrep

/-! ### Outcomes (R401, R404) -/

/-- A fault that is error mode comes from the gate: no instruction answers with one. -/
theorem errorMode_of_step_fault {s : State} {tt : BitVec 8} (h : step s = .fault (.errorMode tt)) :
    s.errorMode = true := by
  obtain front | ⟨i, -, hexec⟩ := step_fault h
  · exact frontEnd_errorMode front
  · obtain hillegal | ⟨l, halloc⟩ := exec_fault hexec
    · cases hillegal
    · cases halloc

/-- A step that gives a next state continues, reports a watchpoint, or enters error mode, which it was not in. -/
theorem report_of_step_next {s t : State} (h : step s = .next t) :
    (∃ trap, t.report = .continued trap) ∨ (∃ n a old new, t.report = .watchpoint n a old new) ∨
      (∃ tt, t.report = .errorMode tt) ∧ s.errorMode = false := by
  obtain ⟨i, u, front, hexec, rfl⟩ := step_next h
  obtain ⟨trap, hcont⟩ | ⟨tt, herr, -⟩ := (exec_ran hexec).report_cases
  · obtain hrep | hrep := finish_report_of_continued s hcont
    · exact .inl ⟨trap, hrep⟩
    · exact .inr (.inl hrep)
  · rw [finish_of_errorMode s herr]
    exact .inr (.inr ⟨⟨tt, herr⟩, (frontEnd_ok front).1⟩)

/-- Settles O6: the five outcomes are those of a fault, which keeps the state; the others come with a next state. -/
theorem stoppedStepIsSafeToRetry : Obligations.StoppedStepIsSafeToRetry := by
  intro s
  rcases hstep : step s with t | f | r
  case fault =>
    have stops := stepOutcome_of_fault hstep
    exact ⟨f.report, s, stops, fun _ => ⟨rfl, stops⟩⟩
  case refused => exact absurd hstep (step_not_refused s r)
  case next =>
    refine ⟨t.report, t, stepOutcome_of_next hstep, fun stopped => absurd stopped ?_⟩
    obtain ⟨trap, hrep⟩ | ⟨n, a, old, new, hrep⟩ | ⟨⟨tt, hrep⟩, running⟩ := report_of_step_next hstep
    · simp [hrep]
    · simp [hrep]
    · simp [hrep, running]

/-! ### The watchpoint report (60_exceptions R1046) -/

theorem firstWatched_eq_none_iff (b : BreakpointTable) (words : List Word) :
    firstWatched b words = none ↔ ∀ a ∈ words, b.matchData a = none := by
  induction words with
  | nil => simp [firstWatched]
  | cons a rest ih => cases h : b.matchData a <;> simp [firstWatched, h, ih]

/-- The first watched word: none before it is watched. -/
theorem firstWatched_some {b : BreakpointTable} {words : List Word} {e : BreakEntry} {a : Word}
    (h : firstWatched b words = some (e, a)) :
    ∃ before after, words = before ++ a :: after ∧ b.matchData a = some e ∧ ∀ c ∈ before, b.matchData c = none := by
  induction words with
  | nil => cases h
  | cons c rest ih =>
    cases hc : b.matchData c with
    | some d =>
      simp only [firstWatched, hc, Option.some.injEq, Prod.mk.injEq] at h
      obtain ⟨rfl, rfl⟩ := h
      exact ⟨[], rest, rfl, hc, nofun⟩
    | none =>
      simp only [firstWatched, hc] at h
      obtain ⟨before, after, rfl, ha, hbefore⟩ := ih h
      exact ⟨c :: before, after, rfl, ha, List.forall_mem_cons.2 ⟨hc, hbefore⟩⟩

/-- A reported watchpoint comes from the one data write of the instruction. -/
theorem watchHit_of_wrote {s u : State} (h : Wrote s u) {hit : Report}
    (hhit : watchHit u.bps s.mem u.mem u.writes = some hit) :
    ∃ d e a, u.writes = [d] ∧ firstWatched u.bps d.words = some (e, a) ∧
      hit = .watchpoint e.serial a (s.mem.read4 a) (u.mem.read4 a) := by
  obtain ⟨⟨e, a⟩, hfirst, rfl⟩ := Option.map_eq_some_iff.1 hhit
  obtain ⟨-, hnone⟩ | ⟨b, bytes, -, -, -, hone⟩ := h
  · rw [hnone] at hfirst
    cases hfirst
  · rw [hone, List.flatMap_singleton] at hfirst
    exact ⟨⟨b, bytes⟩, e, a, hone, hfirst, rfl⟩

/-- No hit, no watched word. -/
theorem unwatched_of_watchHit {b : BreakpointTable} {before after : Memory} {ws : List DataWrite}
    (h : watchHit b before after ws = none) : ∀ d ∈ ws, ∀ a ∈ d.words, b.matchData a = none := by
  have none_first := (firstWatched_eq_none_iff ..).1 (Option.map_eq_none_iff.1 h)
  exact fun d hd a ha => none_first a (List.mem_flatMap.2 ⟨d, hd, ha⟩)

/-- Settles O8: the step reports what `watchHit` finds in the instruction's write list, which holds one write or none. -/
theorem watchpointReport : Obligations.WatchpointReport := by
  intro s t out h
  obtain ⟨hnext, rfl⟩ | ⟨f, hfault, rfl, rfl⟩ := stepOutcome_ok h
  · obtain ⟨u, run, rfl⟩ := ran_of_step hnext
    obtain ⟨trap, hcont⟩ | ⟨tt, herr, -⟩ := run.report_cases
    · rw [finish_of_continued s hcont, ← run.bps]
      cases hhit : watchHit u.bps s.mem u.mem u.writes with
      | none => exact ⟨nofun, fun _ _ => unwatched_of_watchHit hhit⟩
      | some hit =>
        obtain ⟨d, e, a, hone, hfirst, rfl⟩ := watchHit_of_wrote run.wrote hhit
        obtain ⟨before, after, hwords, hentry, hbefore⟩ := firstWatched_some hfirst
        refine ⟨fun n b old new hrep => ?_, nofun⟩
        obtain ⟨rfl, rfl, rfl, rfl⟩ := by simpa using hrep
        exact ⟨d, before, after, hone, hwords, ⟨e, hentry, rfl⟩, hbefore, rfl, rfl⟩
    · rw [finish_of_errorMode s herr, herr]
      exact ⟨nofun, nofun⟩
  · cases f <;> exact ⟨nofun, nofun⟩

/-! ### Traps and error mode (60_exceptions R1001, R1011, R1013) -/

theorem TrapType.tt_mem_codes {t : TrapType} (h : t.raised = true) :
    t.tt ∈ ([0x03, 0x04, 0x05, 0x06, 0x07, 0x08, 0x0A, 0x2A] : List (BitVec 8)) := by
  cases t <;> first | decide | cases h

theorem TrapFsr.fields {old v : Word} (h : TrapFsr old v) :
    v = old ∨ (∃ e, e ≠ 0 ∧ castToFSR v = { castToFSR old with cexc := e, ftt := 1 }) ∨
      castToFSR v = { castToFSR old with ftt := 3 } := by
  obtain rfl | ⟨e, he, rfl⟩ | rfl := h
  · exact .inl rfl
  · exact .inr (.inl ⟨e, he, castToFSR_ieeeTrap ..⟩)
  · exact .inr (.inr (castToFSR_unimplementedTrap _))

/-- Settles O57: of the three ways an instruction can end, only a taken trap makes the step report a trap, and only the
entry of error mode makes it report error mode; a fault reports error mode only in error mode. -/
theorem trapAndErrorModeEntry : Obligations.TrapAndErrorModeEntry := by
  intro s t out shaped h codes fsrOk
  obtain ⟨hnext, rfl⟩ | ⟨f, hfault, rfl, rfl⟩ := stepOutcome_ok h
  · obtain ⟨u, run, rfl⟩ := ran_of_step hnext
    cases run with
    | completed done =>
      obtain hrep | ⟨n, a, old, new, hrep⟩ := finish_report_of_continued s done.report <;> rw [hrep] <;>
        exact ⟨nofun, nofun⟩
    | trapped trap raised v hv traps =>
      refine ⟨fun tt hrep => ?_, nofun⟩
      obtain rfl : trap.tt = tt := by injection hrep with hrep; injection hrep
      exact ⟨traps, TrapType.tt_mem_codes raised, hv.fields, trapTaken_takeTrap shaped trap.tt v⟩
    | stopped trap raised v hv stops =>
      refine ⟨nofun, fun tt hrep _ => ?_⟩
      obtain rfl : trap.tt = tt := by injection hrep
      exact ⟨stops, TrapType.tt_mem_codes raised, hv.fields, errorModeEntered s trap.tt v⟩
  · cases f with
    | errorMode tt => exact ⟨nofun, fun _ _ running => absurd (errorMode_of_step_fault hfault) (by simp [running])⟩
    | _ => exact ⟨nofun, nofun⟩

/-! ### `continue` (R450) -/

theorem continueFrom_succ (k : Nat) (out : Report) (s : State) :
    continueFrom (k + 1) out s =
      (stepOutcome s).bind fun r => if r.1.isContinue then continueFrom k r.1 r.2 else .ok r := by
  rw [continueFrom]
  rcases stepOutcome s with r | ⟨out', t⟩ <;> rfl

/-- The loop looks at the outcome it has only when it has no step left. -/
theorem continueFrom_congr {n : Nat} (h : 0 < n) (out out' : Report) (s : State) :
    continueFrom n out s = continueFrom n out' s := by
  obtain ⟨k, rfl⟩ := Nat.exists_eq_add_of_lt h
  rw [Nat.zero_add, continueFrom_succ, continueFrom_succ]

/-- The loop of m steps followed by that of n, by induction on m. -/
theorem continueFrom_add {m : Nat} (n : Nat) {out out' : Report} {s t : State} (hout : out.isContinue = true)
    (h : continueFrom m out s = .ok (out', t)) :
    continueFrom (m + n) out s = if out'.isContinue then continueFrom n out' t else .ok (out', t) := by
  induction m generalizing out s with
  | zero =>
    obtain ⟨rfl, rfl⟩ : out = out' ∧ s = t := by simpa [continueFrom] using h
    rw [Nat.zero_add, if_pos hout]
  | succ m ih =>
    rw [Nat.add_right_comm, continueFrom_succ]
    rw [continueFrom_succ] at h
    rcases hstep : stepOutcome s with r | ⟨first, u⟩
    · rw [hstep] at h
      cases h
    · simp only [hstep, Except.bind] at h ⊢
      cases hfirst : first.isContinue with
      | true =>
        simp only [hfirst, if_true] at h ⊢
        exact ih hfirst h
      | false =>
        simp only [hfirst, Bool.false_eq_true, if_false, Except.ok.injEq, Prod.mk.injEq] at h ⊢
        obtain ⟨rfl, rfl⟩ := h
        rw [if_neg (by simp [hfirst])]

theorem continueFor_one (s : State) : continueFor 1 s = stepOutcome s := by
  rw [continueFor, continueFrom_succ]
  rcases stepOutcome s with r | ⟨out, t⟩
  · rfl
  · exact ite_id _

/-- Settles O9: a continue of m + n steps is one of m and then, unless that stopped, one of n (`continueFrom_add`). -/
theorem continueComposes : Obligations.ContinueComposes := by
  refine ⟨fun _ => rfl, continueFor_one, fun m n s t out h => ⟨fun stopped => ?_, fun goesOn hn => ?_⟩⟩
  · rw [continueFor, continueFrom_add n rfl h, if_neg (by simp [stopped])]
  · rw [continueFor, continueFrom_add n rfl h, if_pos goesOn]
    exact continueFrom_congr hn ..

end Sys2Proof.Machine

/-! PROOF. The gates of a step in their order (40_execution_engine R402, R412, R415). -/

namespace Sys2Proof.Machine

/-- A word that matches no row of the table is unrecognised. -/
theorem decodeStage_of_unmatched {c : Config} {w : Word} (h : matchRow opcodeTable w = none) :
    decodeStage c w = none := by
  cases hdecode : decode w with
  | error e => exact decodeStage_of_error hdecode
  | ok i =>
    have agrees := decodeAgreesWithTable w
    rw [h, hdecode] at agrees
    cases agrees

/-- An instruction whose row is not implemented is unrecognised; the word of NOP has two rows (log 12). -/
theorem decodeStage_of_notImplemented {c : Config} {w : Word} {i : Instr} (h : decode w = .ok i)
    (hrow : i.mnemonic ∈ c.notImplemented) (hnop : i = .nop → "SETHI" ∈ c.notImplemented) :
    decodeStage c w = none := by
  have refused : admitted c i = false := by
    by_cases isNop : i = .nop
    · simp [admitted, hrow, hnop isNop]
    · simp [admitted, hrow, isNop]
  rw [decodeStage_of_decode h, refused]
  rfl

theorem decodeStage_of_unimp {c : Config} {w : Word} {n : BitVec 22} (h : decode w = .ok (.unimp n)) :
    decodeStage c w = none := by
  rw [decodeStage_of_decode h, if_neg (by simp [isUnimp])]

/-- A gate or a pre-check that stops the step leaves the state as it was. -/
theorem stepOutcome_of_frontEnd_error {s : State} {f : Fault} (h : frontEnd s = .error f) :
    stepOutcome s = .ok (f.report, s) :=
  stepOutcome_of_fault (step_of_frontEnd_error h)

/-- Settles O5: the tests of `frontEnd` in their order; a word is unrecognised for one of three reasons. -/
theorem stepGates : Obligations.StepGates := by
  intro s
  refine ⟨?errorMode, ?window, ?unrecognised, ?breakpoint⟩
  case errorMode =>
    intro h
    exact stepOutcome_of_frontEnd_error (frontEnd_of_errorMode h)
  case window =>
    intro h hw
    exact stepOutcome_of_frontEnd_error (frontEnd_of_invalidWindow h hw)
  case unrecognised =>
    intro live reason
    refine stepOutcome_of_frontEnd_error (frontEnd_of_unrecognised live ?_)
    obtain unmatched | ⟨i, hdecode, hrow, hnop⟩ | ⟨n, hdecode⟩ := reason
    · exact decodeStage_of_unmatched unmatched
    · exact decodeStage_of_notImplemented hdecode hrow hnop
    · exact decodeStage_of_unimp hdecode
  case breakpoint =>
    intro i e live hdecode implemented notUnimp hentry
    exact stepOutcome_of_frontEnd_error
      (frontEnd_of_breakpoint live (decodeStage_of_implemented hdecode implemented notUnimp) hentry)

end Sys2Proof.Machine

/-! PROOF. The integer instructions but the logical cc ones and the divides: each is one of the shared forms at its own
value and flags, and the values and flags are those of the rules (41_integer_arithmetic R501 to R558). -/

namespace Sys2Proof.Machine

/-! ### The values of the shifts and of SETHI (R535 to R540) -/

theorem shiftCount_eq (b : Word) : shiftCount b = b.toNat % 32 := by
  simp [shiftCount, BitVec.extractLsb'_toNat]

theorem sll_eq (a b : Word) : a <<< shiftCount b = BitVec.ofNat 32 (a.toNat * 2 ^ (b.toNat % 32)) := by
  rw [shiftCount_eq]
  apply BitVec.eq_of_toNat_eq
  rw [BitVec.toNat_shiftLeft, BitVec.toNat_ofNat, Nat.shiftLeft_eq]

theorem srl_eq (a b : Word) : a >>> shiftCount b = BitVec.ofNat 32 (a.toNat / 2 ^ (b.toNat % 32)) := by
  rw [shiftCount_eq]
  apply BitVec.eq_of_toNat_eq
  rw [BitVec.toNat_ushiftRight, BitVec.toNat_ofNat, Nat.shiftRight_eq_div_pow,
    Nat.mod_eq_of_lt ((Nat.div_le_self ..).trans_lt a.isLt)]

theorem sra_eq (a b : Word) :
    a.sshiftRight (shiftCount b) = BitVec.ofInt 32 (a.toInt / 2 ^ (b.toNat % 32)) := by
  rw [shiftCount_eq, BitVec.sshiftRight, Int.shiftRight_eq_div_pow]
  norm_cast

theorem sethiValue_eq (imm22 : BitVec 22) : sethiValue imm22 = BitVec.ofNat 32 (imm22.toNat * 1024) := by
  have := imm22.isLt
  apply BitVec.eq_of_toNat_eq
  rw [sethiValue, toNat_append_eq_add, BitVec.toNat_ofNat, BitVec.toNat_ofNat]
  omega

/-! ### Add, subtract and their flags without a carry in (R501, R502) -/

theorem addValue_false (a b : Word) : addValue a b false = a + b := by
  simp [addValue_eq]

theorem subValue_false (a b : Word) : subValue a b false = a - b := by
  simp [subValue_eq]

theorem carry_add (s : State) (a b : Word) :
    addValue a b s.carry = a + b + (if (castToPSR s.psr).icc.c then 1 else 0) := addValue_eq a b s.carry

theorem carry_sub (s : State) (a b : Word) :
    subValue a b s.carry = a - b - (if (castToPSR s.psr).icc.c then 1 else 0) := subValue_eq a b s.carry

/-- The flags of a sum with no carry in, against the exact integers. -/
theorem addIcc_false (a b : Word) :
    addIcc a b false = ⟨(a + b).msb, decide (a + b = 0), decide ((a + b).toInt ≠ a.toInt + b.toInt),
      decide (2 ^ 32 ≤ a.toNat + b.toNat)⟩ := by
  have overflow := addIcc_v_eq_false_iff a b false
  have carry := addIcc_c a b false
  simp only [addValue_false, carryIn, Bool.false_eq_true, if_false, add_zero] at overflow carry
  have v : (addIcc a b false).v = decide ((a + b).toInt ≠ a.toInt + b.toInt) := by
    rw [Bool.eq_iff_iff, ← Bool.not_eq_false, overflow, decide_eq_true_iff]
  have c : (addIcc a b false).c = decide (2 ^ 32 ≤ a.toNat + b.toNat) := by
    rw [carry, decide_eq_decide]
    omega
  rw [← v, ← c, ← addValue_false]
  rfl

/-- The flags of a difference with no borrow in, against the exact integers. -/
theorem subIcc_false (a b : Word) :
    subIcc a b false = ⟨(a - b).msb, decide (a - b = 0), decide ((a - b).toInt ≠ a.toInt - b.toInt),
      decide (a.toNat < b.toNat)⟩ := by
  have overflow := subIcc_v_eq_false_iff a b false
  have borrow := subIcc_c a b false
  simp only [subValue_false, carryIn, Bool.false_eq_true, if_false, add_zero, sub_zero] at overflow borrow
  have v : (subIcc a b false).v = decide ((a - b).toInt ≠ a.toInt - b.toInt) := by
    rw [Bool.eq_iff_iff, ← Bool.not_eq_false, overflow, decide_eq_true_iff]
  have c : (subIcc a b false).c = decide (a.toNat < b.toNat) := by
    rw [borrow, decide_eq_decide]
    omega
  rw [← v, ← c, ← subValue_false]
  rfl

theorem addIcc_eq_bits (a b : Word) (cin : Bool) :
    let r := addValue a b cin
    addIcc a b cin = ⟨r.msb, decide (r = 0), (a.msb && b.msb && !r.msb) || (!a.msb && !b.msb && r.msb),
      (a.msb && b.msb) || (!r.msb && (a.msb || b.msb))⟩ := by
  intro r
  rw [← addIcc_v_eq_bits, ← addIcc_c_eq_bits]
  rfl

theorem subIcc_eq_bits (a b : Word) (cin : Bool) :
    let r := subValue a b cin
    subIcc a b cin = ⟨r.msb, decide (r = 0), (a.msb && !b.msb && !r.msb) || (!a.msb && b.msb && r.msb),
      (!a.msb && b.msb) || (r.msb && (!a.msb || b.msb))⟩ := by
  intro r
  rw [← subIcc_v_eq_bits, ← subIcc_c_eq_bits]
  rfl

/-! ### The instructions without flags (R510 to R541) -/

section
variable (s : State) (rd rs1 : Reg) (op2 : Op2) (imm22 : BitVec 22)

theorem exec_addx : exec (.addx rd rs1 op2) s =
    aluResult rd (addValue (s.x rs1) (s.operand op2) s.carry) s := rfl
theorem exec_subx : exec (.subx rd rs1 op2) s =
    aluResult rd (subValue (s.x rs1) (s.operand op2) s.carry) s := rfl
theorem exec_sll : exec (.sll rd rs1 op2) s = aluResult rd (s.x rs1 <<< shiftCount (s.operand op2)) s := rfl
theorem exec_srl : exec (.srl rd rs1 op2) s = aluResult rd (s.x rs1 >>> shiftCount (s.operand op2)) s := rfl
theorem exec_sra : exec (.sra rd rs1 op2) s =
    aluResult rd ((s.x rs1).sshiftRight (shiftCount (s.operand op2))) s := rfl
theorem exec_sethi : exec (.sethi rd imm22) s = aluResult rd (sethiValue imm22) s := rfl

end

/-- Settles O10: each of the fourteen is the shared form `gives_alu` at its own value. -/
theorem plainArithmetic : Obligations.PlainArithmetic := by
  intro s rd rs1 op2 imm22 h a b carry gets
  have alu (v : Word) := gives_alu h rd v
  simp only [gets, exec_addx, exec_subx, exec_sll, exec_srl, exec_sra, exec_sethi, carry_add, carry_sub, sll_eq, srl_eq,
    sra_eq, sethiValue_eq]
  exact ⟨alu _, alu _, alu _, alu _, alu _, alu _, alu _, alu _, alu _, alu _, alu _, alu _, alu _, alu _⟩

/-- Settles O18: each is the sequential advance and nothing else. -/
theorem noOperation : Obligations.NoOperation := by
  intro s rs1 op2 passes
  have advances : Gives (.next s.advance) fun t => s.Advanced t ∧ Quietly t ∧ s.KeptBut t [.counters] :=
    gives_next ⟨⟨rfl, rfl⟩, quietly_advance s, keptBut_goTo ..⟩
  exact ⟨advances, advances, advances⟩

/-! ### Add and subtract with flags (R511 to R517) -/

section
variable (s : State) (rd rs1 : Reg) (op2 : Op2)

theorem exec_addcc : exec (.addcc rd rs1 op2) s = aluCcResult rd (addValue (s.x rs1) (s.operand op2) false)
    (addIcc (s.x rs1) (s.operand op2) false) s := rfl
theorem exec_addxcc : exec (.addxcc rd rs1 op2) s = aluCcResult rd (addValue (s.x rs1) (s.operand op2) s.carry)
    (addIcc (s.x rs1) (s.operand op2) s.carry) s := rfl
theorem exec_subcc : exec (.subcc rd rs1 op2) s = aluCcResult rd (subValue (s.x rs1) (s.operand op2) false)
    (subIcc (s.x rs1) (s.operand op2) false) s := rfl
theorem exec_subxcc : exec (.subxcc rd rs1 op2) s = aluCcResult rd (subValue (s.x rs1) (s.operand op2) s.carry)
    (subIcc (s.x rs1) (s.operand op2) s.carry) s := rfl

end

/-- Settles O11: each of the four is the shared form `gives_aluCc` at its own result, with the flags by the bit
formulas. -/
theorem addSubtractCc : Obligations.AddSubtractCc := by
  intro s rd rs1 op2 h a b carry gets added subtracted
  simp only [added, subtracted, gets, exec_addcc, exec_addxcc, exec_subcc, exec_subxcc, addIcc_eq_bits, subIcc_eq_bits,
    addValue_false, subValue_false, carry_add, carry_sub]
  exact ⟨gives_aluCc h rd _ _, gives_aluCc h rd _ _, gives_aluCc h rd _ _, gives_aluCc h rd _ _⟩

/-! ### Tagged arithmetic (R545 to R548) -/

theorem tagged_eq (a b : Word) : tagged a b = (decide (a.toNat % 4 ≠ 0) || decide (b.toNat % 4 ≠ 0)) := by
  have tag (w : Word) : (w.extractLsb' 0 2 != 0) = decide (w.toNat % 4 ≠ 0) := by
    rw [Bool.eq_iff_iff, bne_iff_ne, decide_eq_true_iff, ne_eq, ne_eq, ← BitVec.toNat_inj, BitVec.extractLsb'_toNat]
    rfl
  rw [tagged, tag, tag]

section
variable (s : State) (rd rs1 : Reg) (op2 : Op2)

theorem exec_taddcc : exec (.taddcc rd rs1 op2) s = aluCcResult rd (addValue (s.x rs1) (s.operand op2) false)
    (taggedIcc (addIcc (s.x rs1) (s.operand op2) false) (s.x rs1) (s.operand op2)) s := rfl
theorem exec_tsubcc : exec (.tsubcc rd rs1 op2) s = aluCcResult rd (subValue (s.x rs1) (s.operand op2) false)
    (taggedIcc (subIcc (s.x rs1) (s.operand op2) false) (s.x rs1) (s.operand op2)) s := rfl
theorem exec_taddcctv : exec (.taddcctv rd rs1 op2) s = taggedTrapResult rd
    (addValue (s.x rs1) (s.operand op2) false) (addIcc (s.x rs1) (s.operand op2) false)
    (tagOverflow (addIcc (s.x rs1) (s.operand op2) false) (s.x rs1) (s.operand op2)) s := rfl
theorem exec_tsubcctv : exec (.tsubcctv rd rs1 op2) s = taggedTrapResult rd
    (subValue (s.x rs1) (s.operand op2) false) (subIcc (s.x rs1) (s.operand op2) false)
    (tagOverflow (subIcc (s.x rs1) (s.operand op2) false) (s.x rs1) (s.operand op2)) s := rfl

end

theorem gives_taggedTrap {s : State} (h : s.Shaped) (rd : Reg) (v : Word) (i : Icc) {overflow : Bool}
    (ho : overflow = false) :
    Gives (taggedTrapResult rd v i overflow s) fun t =>
      s.WritesX rd v t ∧ castToPSR t.psr = { castToPSR s.psr with icc := { i with v := false } } ∧ s.Advanced t ∧
        Quietly t ∧ s.KeptBut t [.integers, .counters, .psr] := by
  rw [taggedTrapResult, if_neg (by simp [ho])]
  exact gives_aluCc h rd v _

theorem traps_taggedTrap {s : State} (h : s.Shaped) (rd : Reg) (v : Word) (i : Icc) {overflow : Bool}
    (ho : overflow = true) : Traps 0x0A s.fsr s (taggedTrapResult rd v i overflow s) := by
  rw [taggedTrapResult, if_pos ho]
  exact traps_raise h .tagOverflow

/-- Settles O14: the shared forms at the sum and the difference, v being the overflow of the exact integers or a tag. -/
theorem taggedArithmetic : Obligations.TaggedArithmetic := by
  intro s rd rs1 op2 h a b tags sumTv diffTv gets
  simp only [gets, exec_taddcc, exec_tsubcc, exec_taddcctv, exec_tsubcctv, taggedIcc, tagOverflow, tagged_eq,
    addIcc_false, subIcc_false, addValue_false, subValue_false]
  exact ⟨gives_aluCc h rd _ _, gives_aluCc h rd _ _, gives_taggedTrap h rd _ _, gives_taggedTrap h rd _ _⟩

/-- Settles O15: the trap of the shared form comes before its writes. -/
theorem tagOverflowTraps : Obligations.TagOverflowTraps := by
  intro s rd rs1 op2 h a b tags
  simp only [exec_taddcctv, exec_tsubcctv, tagOverflow, tagged_eq, addIcc_false, subIcc_false]
  exact ⟨traps_taggedTrap h rd _ _, traps_taggedTrap h rd _ _⟩

/-! ### Multiply (R550 to R558) -/

theorem productLow_ofInt (p : Int) : productLow (BitVec.ofInt 64 p) = BitVec.ofInt 32 p := by
  apply BitVec.eq_of_toNat_eq
  rw [productLow, BitVec.extractLsb'_toNat, BitVec.toNat_ofInt, BitVec.toNat_ofInt, Nat.shiftRight_zero]
  omega

theorem productHigh_ofInt (p : Int) : productHigh (BitVec.ofInt 64 p) = BitVec.ofInt 32 (p / 2 ^ 32) := by
  apply BitVec.eq_of_toNat_eq
  rw [productHigh, BitVec.extractLsb'_toNat, BitVec.toNat_ofInt, BitVec.toNat_ofInt, Nat.shiftRight_eq_div_pow]
  omega

/-- The product modulo 2^64 is that of the exact product. -/
theorem unsignedProduct_eq (a b : Word) : unsignedProduct a b = BitVec.ofInt 64 (a.toNat * b.toNat) := by
  rw [BitVec.ofInt_mul, BitVec.ofInt_natCast, BitVec.ofInt_natCast, BitVec.ofNat_toNat, BitVec.ofNat_toNat]
  rfl

theorem signedProduct_eq (a b : Word) : signedProduct a b = BitVec.ofInt 64 (a.toInt * b.toInt) := by
  rw [BitVec.ofInt_mul]
  rfl

theorem gives_mulCc {s : State} (h : s.Shaped) (rd : Reg) (p : BitVec 64) :
    Gives (mulCcResult rd p s) fun t =>
      s.WritesX rd (productLow p) t ∧ t.y = productHigh p ∧
        castToPSR t.psr = { castToPSR s.psr with icc := logicIcc (productLow p) } ∧ s.Advanced t ∧ Quietly t ∧
        s.KeptBut t [.integers, .counters, .psr, .y] :=
  gives_withYAndIcc h rd _ _ _

section
variable (s : State) (rd rs1 : Reg) (op2 : Op2)

theorem exec_umul : exec (.umul rd rs1 op2) s = mulResult rd (unsignedProduct (s.x rs1) (s.operand op2)) s := rfl
theorem exec_smul : exec (.smul rd rs1 op2) s = mulResult rd (signedProduct (s.x rs1) (s.operand op2)) s := rfl
theorem exec_umulcc : exec (.umulcc rd rs1 op2) s =
    mulCcResult rd (unsignedProduct (s.x rs1) (s.operand op2)) s := rfl
theorem exec_smulcc : exec (.smulcc rd rs1 op2) s =
    mulCcResult rd (signedProduct (s.x rs1) (s.operand op2)) s := rfl
theorem exec_mulscc : exec (.mulscc rd rs1 op2) s =
    .next (((s.setX rd (addValue (s.mulStepOperand rs1) (s.mulStepAddend op2) false)).setY (s.mulStepY rs1)).setIcc
      (addIcc (s.mulStepOperand rs1) (s.mulStepAddend op2) false)).advance := rfl

/-- A bit put above the 31 upper bits of a word is the shifted word with or without its sign bit. -/
theorem ofBool_append_shifted (top : Bool) (w : Word) :
    (BitVec.ofBool top ++ w.extractLsb' 1 31 : Word) = (w >>> 1) ||| (if top then 0x80000000 else 0) := by
  have upper : (w.extractLsb' 1 31).toNat = w.toNat / 2 := by
    have := w.isLt
    rw [BitVec.extractLsb'_toNat, Nat.shiftRight_eq_div_pow]
    omega
  have lower : (if top then 0x80000000 else 0 : Word).toNat = (BitVec.ofBool top).toNat <<< 31 := by
    cases top <;> rfl
  apply BitVec.eq_of_toNat_eq
  rw [BitVec.toNat_append, upper, BitVec.toNat_or, lower, BitVec.toNat_ushiftRight, Nat.or_comm,
    Nat.shiftRight_eq_div_pow]

theorem getLsbD_zero_eq (w : Word) : w.getLsbD 0 = decide (w.toNat % 2 = 1) := Nat.testBit_zero w.toNat

theorem mulStepOperand_eq : s.mulStepOperand rs1 =
    (s.x rs1 >>> 1) ||| (if (castToPSR s.psr).icc.n ^^ (castToPSR s.psr).icc.v then 0x80000000 else 0) :=
  ofBool_append_shifted ..

theorem mulStepAddend_eq : s.mulStepAddend op2 = if s.y.toNat % 2 = 1 then s.operand op2 else 0 := by
  simp only [State.mulStepAddend, getLsbD_zero_eq, decide_eq_true_eq]

theorem mulStepY_eq : s.mulStepY rs1 = (s.y >>> 1) ||| (if (s.x rs1).toNat % 2 = 1 then 0x80000000 else 0) := by
  have low : (s.x rs1).extractLsb' 0 1 = BitVec.ofBool (decide ((s.x rs1).toNat % 2 = 1)) := by
    rw [← getLsbD_zero_eq]
    ext j hj
    obtain rfl : j = 0 := by omega
    rw [BitVec.getElem_extractLsb', BitVec.getElem_ofBool]
  rw [State.mulStepY, low, ofBool_append_shifted]
  simp only [decide_eq_true_eq]

end

/-- Settles O16: the two words of the exact product modulo 2^64; the multiply step adds with no carry in what it read
before any write. -/
theorem multiply : Obligations.Multiply := by
  intro s rd rs1 op2 h a b gets getsCc
  have mul (p : Int) := gives_mul h rd (BitVec.ofInt 64 p)
  have mulCc (p : Int) := gives_mulCc h rd (BitVec.ofInt 64 p)
  simp only [productLow_ofInt, productHigh_ofInt] at mul mulCc
  simp only [gets, getsCc, exec_umul, exec_smul, exec_umulcc, exec_smulcc, unsignedProduct_eq, signedProduct_eq,
    exec_mulscc, addValue_false, addIcc_false, mulStepOperand_eq, mulStepAddend_eq, mulStepY_eq]
  exact ⟨mul _, mul _, mulCc _, mulCc _, gives_withYAndIcc h rd _ _ _⟩

end Sys2Proof.Machine

/-! PROOF. CALL, JMPL and RETT, the windows and the state registers, the illegal fields, and the idiom that returns from a
trap (42_control_transfer R604 to R642, 43_window_and_state R700 to R723, 30_encoding R331). -/

namespace Sys2Proof.Machine

/-! ### CALL and JMPL (42_control_transfer R620, R621) -/

theorem callTarget_eq (pc : Word) (d : BitVec 30) : callTarget pc d = pc + BitVec.ofNat 32 (4 * d.toNat) := by
  have displacement : (d ++ 0#2 : Word) = BitVec.ofNat 32 (4 * d.toNat) := by
    apply BitVec.eq_of_toNat_eq
    have := d.isLt
    change @BitVec.toNat (30 + 2) (_ ++ _) = _
    rw [toNat_append_eq_add, BitVec.toNat_ofNat, BitVec.toNat_ofNat]
    omega
  rw [callTarget, displacement]

section
variable (s : State) (rd rs1 : Reg) (op2 : Op2)

theorem exec_call (d : BitVec 30) :
    exec (.call d) s = .next ((s.setX 15 s.pc).jumpTo (s.pc + BitVec.ofNat 32 (4 * d.toNat))) := by
  rw [← callTarget_eq]
  rfl

variable {s rs1 op2}

theorem exec_jmpl_aligned (ha : (s.x rs1 + s.operand op2).toNat % 4 = 0) :
    exec (.jmpl rd rs1 op2) s = .next ((s.setX rd s.pc).jumpTo (s.x rs1 + s.operand op2)) := whenAligned_of ha ..

end

/-- Settles O21: both write the link and make a delayed transfer. -/
theorem callAndJump : Obligations.CallAndJump := by
  intro s rd rs1 op2 d h goes
  simp only [goes]
  refine ⟨?call, fun ha => ?jmpl⟩
  case call =>
    rw [exec_call]
    exact gives_link h 15 _
  case jmpl =>
    rw [exec_jmpl_aligned rd ha]
    exact gives_link h rd _

/-! ### RETT (42_control_transfer R642) -/

theorem raise_of_disabled (t : TrapType) {s : State} (h : Psr.et s.psr = false) :
    raise t s = .next (enterErrorMode t.tt s) :=
  if_neg (by simp [h])

theorem castToPSR_returnFromTrap (p : Word) (c : BitVec 5) :
    castToPSR (Psr.returnFromTrap p c) = { castToPSR p with et := true, s := Psr.ps p, cwp := c } := by
  simp [castToPSR]

section
variable {s : State} {rs1 : Reg} {op2 : Op2}

/-- RETT in supervisor mode with traps disabled: the window check comes before the alignment of the target. -/
theorem exec_rett_disabled (hs : Psr.s s.psr = true) (het : Psr.et s.psr = false) :
    exec (.rett rs1 op2) s =
      if s.windowInvalid s.followingWindow then raise .windowUnderflow s
      else whenAligned (s.address rs1 op2) 4 s (.next (returnFromTrap (s.address rs1 op2) s)) := by
  change execRett rs1 op2 s = _
  rw [execRett, het, Bool.false_and, if_neg Bool.false_ne_true, privileged_supervisor hs]

theorem exec_rett_enabled (hs : Psr.s s.psr = true) (het : Psr.et s.psr = true) :
    exec (.rett rs1 op2) s = illegal s := by
  change execRett rs1 op2 s = _
  rw [execRett, hs, het]
  rfl

theorem exec_rett_user (hs : Psr.s s.psr = false) : exec (.rett rs1 op2) s = raise .privilegedInstruction s := by
  change execRett rs1 op2 s = _
  rw [execRett, hs, Bool.and_false, if_neg Bool.false_ne_true, privileged_user hs]

theorem windowInvalid_following (h : s.cfg.Legal) :
    s.windowInvalid s.followingWindow = s.wim.getLsbD ((s.window + 1) % s.cfg.nwindows) := by
  rw [State.windowInvalid, followingWindow_toNat h]

theorem windowInvalid_previous (h : s.cfg.Legal) :
    s.windowInvalid s.previousWindow = s.wim.getLsbD ((s.window + s.cfg.nwindows - 1) % s.cfg.nwindows) := by
  rw [State.windowInvalid, previousWindow_toNat h]

end

/-- With every check passed RETT writes the PSR and makes a delayed transfer. -/
theorem gives_rett {s : State} {rs1 : Reg} {op2 : Op2} (h : s.cfg.Legal) (het : Psr.et s.psr = false)
    (hs : Psr.s s.psr = true) (valid : s.wim.getLsbD ((s.window + 1) % s.cfg.nwindows) = false)
    (aligned : (s.x rs1 + s.operand op2).toNat % 4 = 0) :
    Gives (exec (.rett rs1 op2) s) fun t =>
      castToPSR t.psr = { castToPSR s.psr with
        et := true, s := (castToPSR s.psr).ps, cwp := BitVec.ofNat 5 ((s.window + 1) % s.cfg.nwindows) } ∧
      t.pc = s.npc ∧ t.npc = s.x rs1 + s.operand op2 ∧ Quietly t ∧ s.KeptBut t [.counters, .psr] := by
  rw [exec_rett_disabled hs het, windowInvalid_following h, valid, if_neg Bool.false_ne_true,
    whenAligned_of (a := s.address rs1 op2) aligned]
  refine gives_next ⟨castToPSR_returnFromTrap _ _, rfl, rfl, ⟨rfl, rfl⟩, ?_⟩
  exact keptBut_of ⟨rfl, rfl, rfl, rfl, rfl, rfl⟩ (.inr fun _ => rfl) (.inr fun _ => rfl) (.inl (by simp))
    (.inl (by simp)) (.inr rfl) (.inr rfl) (.inr rfl) (.inr rfl) (.inr ⟨fun _ => rfl, rfl, rfl⟩)

/-- Settles O23: the checks of RETT in the order of its definition; with traps disabled a raised trap is error mode. -/
theorem returnFromTrapChecks : Obligations.ReturnFromTrapChecks := by
  intro s rs1 op2 h new r
  refine ⟨fun hs => ?user, fun hs het => exec_rett_enabled hs het, fun hs het => ⟨fun marked => ?window,
    fun valid misaligned => ?target⟩⟩
  case user =>
    simp only [r, exec_rett_user hs]
    exact traps_raise h .privilegedInstruction
  case window =>
    simp only [r, exec_rett_disabled hs het, windowInvalid_following h.1]
    rw [if_pos marked, raise_of_disabled _ het]
    exact gives_next (errorModeEntered s 0x06 s.fsr)
  case target =>
    simp only [r, exec_rett_disabled hs het, windowInvalid_following h.1]
    rw [if_neg (by simpa using valid), whenAligned_not (a := s.address rs1 op2) misaligned, raise_of_disabled _ het]
    exact gives_next (errorModeEntered s 0x07 s.fsr)

/-! ### SAVE and RESTORE (43_window_and_state R700, R701) -/

section
variable {s : State} (h : s.Shaped) (rd rs1 : Reg) (op2 : Op2)
include h

theorem exec_restore_valid (hv : s.wim.getLsbD ((s.window + 1) % s.cfg.nwindows) = false) :
    exec (.restore rd rs1 op2) s = moveWindow s.followingWindow rd rs1 op2 s := by
  change execRestore rd rs1 op2 s = _
  rw [execRestore, windowInvalid_following h.1, hv, if_neg Bool.false_ne_true]

theorem exec_restore_marked (hm : s.wim.getLsbD ((s.window + 1) % s.cfg.nwindows) = true) :
    exec (.restore rd rs1 op2) s = raise .windowUnderflow s := by
  change execRestore rd rs1 op2 s = _
  rw [execRestore, windowInvalid_following h.1, if_pos hm]

theorem exec_save_marked (hm : s.wim.getLsbD ((s.window + s.cfg.nwindows - 1) % s.cfg.nwindows) = true) :
    exec (.save rd rs1 op2) s = raise .windowOverflow s := by
  rw [exec_save, execSave, windowInvalid_previous h.1, if_pos hm]

end

/-- Settles O24: a move to the window before or after, `gives_moveWindow`. -/
theorem saveAndRestore : Obligations.SaveAndRestore := by
  intro s rd rs1 op2 h moves
  have save := gives_moveWindow h (previousWindow_lt h.1) rd rs1 op2
  have restore := gives_moveWindow h (followingWindow_lt h.1) rd rs1 op2
  rw [previousWindow_toNat h.1] at save
  rw [followingWindow_toNat h.1] at restore
  refine ⟨fun valid => ?_, fun valid => ?_⟩
  · rw [exec_save_valid h valid]
    exact save
  · rw [exec_restore_valid h rd rs1 op2 valid]
    exact restore

/-- Settles O25: a marked window and user mode raise the trap in place of the instruction. -/
theorem windowAndPrivilegeTraps : Obligations.WindowAndPrivilegeTraps := by
  intro s rd rs1 op2 h raises
  have user (hs : Psr.s s.psr = false) (body : Result) : Traps 0x03 s.fsr s (privileged s body) := by
    rw [privileged_user hs]
    exact traps_raise h .privilegedInstruction
  refine ⟨fun marked => ?save, fun marked => ?restore,
    fun hs => ⟨user hs _, user hs _, user hs _, user hs _, user hs _, user hs _⟩⟩
  case save =>
    simp only [raises, exec_save_marked h rd rs1 op2 marked]
    exact traps_raise h .windowOverflow
  case restore =>
    simp only [raises, exec_restore_marked h rd rs1 op2 marked]
    exact traps_raise h .windowUnderflow

/-! ### The state registers (43_window_and_state R710 to R723) -/

/-- Settles O27: each is the shared form `gives_alu` at the register, behind the privilege check but for RDY. -/
theorem stateRegisterReads : Obligations.StateRegisterReads := by
  intro s rd h gets
  have reads (v : Word) := gives_alu h rd v
  have supervisor (hs : Psr.s s.psr = true) (v : Word) := (privileged_supervisor hs (aluResult rd v s)).symm ▸ reads v
  exact ⟨reads _, fun hs => ⟨supervisor hs _, supervisor hs _, supervisor hs _⟩⟩

theorem castToPSR_write (p v : Word) :
    castToPSR (Psr.write p v) = { castToPSR v with impl := Psr.impl p, ver := Psr.ver p } := by
  simp [castToPSR]

/-- The WIM mask has a bit for each window and no other (43_window_and_state R722). -/
theorem getLsbD_windowMask (nw : Nat) {j : Nat} (hj : j < 32) : (windowMask nw).getLsbD j = decide (j < nw) := by
  rw [windowMask, BitVec.getLsbD_ofNat, Nat.testBit_two_pow_sub_one, decide_eq_true hj, Bool.true_and]

section
variable {s : State} {rs1 : Reg} {op2 : Op2}

theorem exec_wrpsr_valid (hs : Psr.s s.psr = true)
    (window : (castToPSR (s.x rs1 ^^^ s.operand op2)).cwp.toNat < s.cfg.nwindows) : exec (.wrpsr rs1 op2) s =
      .next { s with psr := Psr.write s.psr (s.x rs1 ^^^ s.operand op2) }.advance :=
  (privileged_supervisor hs _).trans (if_neg (Nat.not_le.2 window))

theorem exec_wrpsr_illegal (hs : Psr.s s.psr = true)
    (window : s.cfg.nwindows ≤ (castToPSR (s.x rs1 ^^^ s.operand op2)).cwp.toNat) :
    exec (.wrpsr rs1 op2) s = illegal s :=
  (privileged_supervisor hs _).trans (if_pos window)

theorem exec_wrwim_supervisor (hs : Psr.s s.psr = true) : exec (.wrwim rs1 op2) s =
    .next { s with wim := s.writeValue rs1 op2 &&& windowMask s.cfg.nwindows }.advance := privileged_supervisor hs _

theorem exec_wrtbr_supervisor (hs : Psr.s s.psr = true) : exec (.wrtbr rs1 op2) s =
    .next { s with tbr := Tbr.setTba s.tbr (s.writeValue rs1 op2) }.advance := privileged_supervisor hs _

end

/-- Settles O28: each writes its one register and advances. -/
theorem stateRegisterWrites : Obligations.StateRegisterWrites := by
  intro s rs1 op2 v done
  refine ⟨gives_next ⟨rfl, ⟨rfl, rfl⟩, ⟨rfl, rfl⟩, ?y⟩, fun hs => ⟨fun window => ?psr, ?wim, ?tbr⟩⟩
  case y =>
    exact keptBut_of ⟨rfl, rfl, rfl, rfl, rfl, rfl⟩ (.inr fun _ => rfl) (.inr fun _ => rfl) (.inl (by simp))
      (.inr rfl) (.inr rfl) (.inr rfl) (.inr rfl) (.inl (by simp)) (.inr ⟨fun _ => rfl, rfl, rfl⟩)
  case psr =>
    rw [exec_wrpsr_valid hs window]
    refine gives_next ⟨castToPSR_write .., ⟨rfl, rfl⟩, ⟨rfl, rfl⟩, ?_⟩
    exact keptBut_of ⟨rfl, rfl, rfl, rfl, rfl, rfl⟩ (.inr fun _ => rfl) (.inr fun _ => rfl) (.inl (by simp))
      (.inl (by simp)) (.inr rfl) (.inr rfl) (.inr rfl) (.inr rfl) (.inr ⟨fun _ => rfl, rfl, rfl⟩)
  case wim =>
    rw [exec_wrwim_supervisor hs]
    refine gives_next ⟨fun j hj => ?_, ⟨rfl, rfl⟩, ⟨rfl, rfl⟩, ?_⟩
    · rw [← getLsbD_windowMask _ hj]
      exact BitVec.getLsbD_and
    · exact keptBut_of ⟨rfl, rfl, rfl, rfl, rfl, rfl⟩ (.inr fun _ => rfl) (.inr fun _ => rfl) (.inl (by simp))
        (.inr rfl) (.inr rfl) (.inr rfl) (.inl (by simp)) (.inr rfl) (.inr ⟨fun _ => rfl, rfl, rfl⟩)
  case tbr =>
    rw [exec_wrtbr_supervisor hs]
    refine gives_next ⟨Tbr.tba_setTba .., Tbr.tt_setTba .., Tbr.zero_setTba .., ⟨rfl, rfl⟩, ⟨rfl, rfl⟩, ?_⟩
    exact keptBut_of ⟨rfl, rfl, rfl, rfl, rfl, rfl⟩ (.inr fun _ => rfl) (.inr fun _ => rfl) (.inl (by simp))
      (.inr rfl) (.inr rfl) (.inl (by simp)) (.inr rfl) (.inr rfl) (.inr ⟨fun _ => rfl, rfl, rfl⟩)

/-! ### Illegal fields (30_encoding R331) -/

/-- A pair check answers IllegalInstruction when its register is odd, and when what it guards does. -/
theorem evenPair_illegal {r : Reg} {s : State} {body : Result} (h : r.toNat % 2 = 1 ∨ body = illegal s) :
    evenPair r s body = illegal s := by
  obtain odd | rest := h
  · exact evenPair_odd odd s body
  · rw [rest, evenPair]
    exact ite_self _

theorem evenPair_illegal₂ {q r : Reg} {s : State} (body : Result) (h : q.toNat % 2 = 1 ∨ r.toNat % 2 = 1) :
    evenPair q s (evenPair r s body) = illegal s :=
  evenPair_illegal (h.imp_right fun odd => evenPair_odd odd s body)

/-- Settles O29: the pair checks come first, in any order; the check of WRPSR comes after the privilege check. -/
theorem illegalFields : Obligations.IllegalFields := by
  intro s rd rs1 rs2 op2 imm22 stops
  have odd {r : Reg} (h : r.toNat % 2 = 1) (body : Result) : evenPair r s body = illegal s := evenPair_odd h s body
  refine ⟨rfl, fun h => ?rd, fun h => ⟨odd h _, odd h _⟩, fun h => evenPair_illegal₂ _ h.symm, fun h => ?compare,
    fun h => ?three, fun hs window => ?wrpsr⟩
  case rd => exact ⟨odd h _, odd h _, odd h _, odd h _, odd h _, odd h _, odd h _⟩
  case compare => exact ⟨evenPair_illegal₂ _ h, evenPair_illegal₂ _ h⟩
  case three =>
    have any (body : Result) : evenPair rs1 s (evenPair rs2 s (evenPair rd s body)) = illegal s := by
      obtain h | h | h := h
      · exact evenPair_illegal (.inr (evenPair_illegal₂ _ (.inr h)))
      · exact evenPair_illegal (.inl h)
      · exact evenPair_illegal (.inr (evenPair_illegal₂ _ (.inl h)))
    exact ⟨any _, any _, any _, any _⟩
  case wrpsr =>
    exact exec_wrpsr_illegal hs window

/-! ### Back from a trap (42_control_transfer R604) -/

theorem takeTrap_shaped {s : State} (h : s.Shaped) (tt : BitVec 8) : (takeTrap tt s).Shaped := by
  refine ⟨h.1, (takeTrap_w_length tt s).trans h.2.1, ?_⟩
  rw [window_takeTrap]
  exact previousWindow_lt h.1

/-- The window before the current one is another, and the one after it is the current one. -/
theorem following_previous {nw win : Nat} (h2 : 2 ≤ nw) (h : win < nw) :
    (win + nw - 1) % nw ≠ win ∧ ((win + nw - 1) % nw + 1) % nw = win := by
  obtain rfl | pos := Nat.eq_zero_or_pos win
  · rw [show 0 + nw - 1 = nw - 1 by omega, Nat.mod_eq_of_lt (by omega), show nw - 1 + 1 = nw by omega, Nat.mod_self]
    omega
  · rw [show win + nw - 1 = win - 1 + nw by omega, Nat.add_mod_right, Nat.mod_eq_of_lt (by omega),
      show win - 1 + 1 = win by omega, Nat.mod_eq_of_lt h]
    omega

/-- No register of a window is a local of another. -/
theorem resolve_ne_local {nw win win' : Nat} (h : win' ≠ win) (r : Reg) (k : Fin 8) :
    resolve nw win' r ≠ resolve nw win (BitVec.ofNat 5 (16 + k)) := by
  rw [resolve_local]
  exact fun e => h (resolve_eq_local e).1

/-- A trap taken with traps enabled. -/
theorem castToPSR_takeTrap (tt : BitVec 8) (s : State) : castToPSR (takeTrap tt s).psr =
    { castToPSR s.psr with et := false, ps := Psr.s s.psr, s := true, cwp := s.previousWindow } := by
  change castToPSR (Psr.enterTrap s.psr s.previousWindow) = _
  simp [castToPSR]

/-- `jmpl %l1, %g0` after a trap goes to the pc of the trapped instruction. -/
theorem exec_jmpl_takeTrap {s : State} (h : s.Shaped) (aligned : s.PcAligned) (tt : BitVec 8) :
    exec (.jmpl 0 17 (.imm 0)) (takeTrap tt s) = .next ((takeTrap tt s).jumpTo s.pc) := by
  have target : (takeTrap tt s).x 17 + (takeTrap tt s).operand (.imm 0) = s.pc := by
    rw [(takeTrap_saves h tt).1]
    exact BitVec.add_zero _
  rw [exec_jmpl_aligned 0 (by rw [target]; exact (alignWord_eq_iff _).1 aligned.1), target, State.setX_g0]

/-- What the trap saved is read back by `rett %l2`. -/
theorem rett_target_takeTrap {s : State} (h : s.Shaped) (tt : BitVec 8) :
    ((takeTrap tt s).jumpTo s.pc).x 18 + ((takeTrap tt s).jumpTo s.pc).operand (.imm 0) = s.npc := by
  rw [State.x_jumpTo, (takeTrap_saves h tt).2]
  exact BitVec.add_zero _

/-- Settles O58: the trap enters the window before the current one, whose following window is the current one again; l1
and l2 of the entered window are the only slots written, and no register of the current window is one of them. -/
theorem trapReturnIdiom : Obligations.TrapReturnIdiom := by
  intro s tt h pcAligned het valid
  obtain ⟨legal, length, inRange⟩ := h
  have h : s.Shaped := ⟨legal, length, inRange⟩
  obtain ⟨other, back⟩ := following_previous legal.1 inRange
  rw [exec_jmpl_takeTrap h pcAligned]
  refine gives_next ?_
  set u := (takeTrap tt s).jumpTo s.pc with hu
  have window : u.window = (s.window + s.cfg.nwindows - 1) % s.cfg.nwindows :=
    (window_takeTrap tt s).trans (previousWindow_toNat legal)
  have following : (u.window + 1) % u.cfg.nwindows = s.window := by rw [window]; exact back
  have psr : castToPSR u.psr = _ := castToPSR_takeTrap tt s
  have target := rett_target_takeTrap h tt
  rw [← hu] at target
  obtain ⟨t, hrett, hpsr, hpc, hnpc, -, ⟨hcfg, hlength, hengine⟩, hparts⟩ := gives_rett (s := u) (rs1 := 18)
    (op2 := .imm 0) legal (congrArg PsrFields.et psr) (congrArg PsrFields.s psr) (by rw [following]; exact valid)
    (by rw [target]; exact (alignWord_eq_iff _).1 pcAligned.2)
  have npc : t.npc = s.npc := hnpc.trans target
  have slots : s.SlotsKeptBut t ((s.window + s.cfg.nwindows - 1) % s.cfg.nwindows) [17, 18] := fun slot hslot => by
    rw [hparts .integers (by simp) slot]
    rw [← previousWindow_toNat legal] at hslot
    exact takeTrap_readSlot tt (hslot 17 (by simp)) (hslot 18 (by simp))
  have tpsr : castToPSR t.psr = { castToPSR s.psr with ps := (castToPSR s.psr).s } := by
    have cwp : BitVec.ofNat 5 s.window = Psr.cwp s.psr := by simp [State.window]
    rw [hpsr, psr, following, cwp]
    simp only [castToPSR, het]
  have twindow : t.window = s.window := congrArg (fun p => p.cwp.toNat) tpsr
  refine ⟨t, hrett, hpc, npc, tpsr, slots, fun r => ?registers,
    ⟨hcfg, hlength.trans (takeTrap_w_length tt s), hengine⟩, fun p hp => ?parts⟩
  case registers =>
    rw [State.x, State.xIn, twindow, show t.cfg = s.cfg from hcfg]
    refine slots _ fun q hq => ?_
    obtain rfl | rfl : q = 17 ∨ q = 18 := by simpa using hq
    · exact resolve_ne_local other.symm r 1
    · exact resolve_ne_local other.symm r 2
  case parts =>
    cases p with
    | integers | psr | tbr => simp at hp
    | counters => exact ⟨hpc, npc⟩
    | floats => exact hparts .floats (by simp)
    | fsr => exact hparts .fsr (by simp)
    | wim => exact hparts .wim (by simp)
    | y => exact hparts .y (by simp)
    | memory => exact hparts .memory (by simp)

end Sys2Proof.Machine

namespace Sys2Proof

/-- Settles O22: `Machine.gives_rett`. -/
theorem returnFromTrap : Obligations.ReturnFromTrap :=
  fun _ _ _ h het hs valid aligned => Machine.gives_rett h.1 het hs valid aligned

end Sys2Proof

/-! PROOF. Loads, stores and the atomic accesses: the guards pass, the bytes read and stored are the big-endian ones, and
the shared forms say the rest (44_load_store R805 to R826, 40_execution_engine R419). -/

namespace Sys2Proof.Machine

/-! ### The guards that pass (44_load_store R802) -/

section
variable {s : State} {body : Result} {P : State → Prop}

theorem gives_evenPair {r : Reg} (even : r.toNat % 2 = 0) (h : Gives body P) : Gives (evenPair r s body) P := by
  rwa [evenPair_even even]

theorem gives_fpEnabled (hef : Psr.ef s.psr = true) (h : Gives body P) : Gives (fpEnabled s body) P := by
  rwa [fpEnabled_on hef]

theorem gives_whenAligned {a : Word} {n : Nat} (ha : a.toNat % n = 0) (h : Gives body P) :
    Gives (whenAligned a n s body) P := by
  rwa [whenAligned_of ha]

theorem Gives.imp {r : Result} {Q : State → Prop} (h : Gives r P) (hpq : ∀ t, P t → Q t) : Gives r Q := by
  obtain ⟨t, hr, hp⟩ := h
  exact ⟨t, hr, hpq t hp⟩

end

/-! ### Big-endian values (20_memory R207) -/

/-- The four bytes from an address up are the word there. -/
theorem bytes_eq_read4 (m : Memory) (a k : Word) :
    m.byte (a + k) ++ m.byte (a + (k + 1)) ++ m.byte (a + (k + 2)) ++ m.byte (a + (k + 3)) = m.read4 (a + k) := by
  rw [← add_assoc, ← add_assoc, ← add_assoc]
  rfl

theorem byte_eq_read1 (m : Memory) (a : Word) : m.byte (a + 0) = m.read1 a := by
  rw [add_zero]
  rfl

@[simp] theorem length_bytesOfHalf (v : BitVec 16) : (bytesOfHalf v).length = 2 := rfl

@[simp] theorem length_bytesOfWord (w : Word) : (bytesOfWord w).length = 4 := rfl

@[simp] theorem length_bytesOfDouble (v : BitVec 64) : (bytesOfDouble v).length = 8 := rfl

theorem bytesOfHalf_low (v : Word) : bytesOfHalf (v.extractLsb' 0 16) = [v.extractLsb' 8 8, v.extractLsb' 0 8] := by
  simp (disch := omega) [bytesOfHalf, BitVec.extractLsb'_extractLsb'_of_le]

theorem bytesOfDouble_append (a b : Word) : bytesOfDouble (a ++ b) = bytesOfWord a ++ bytesOfWord b := by
  rw [bytesOfDouble, BitVec.extractLsb'_append_eq_left, BitVec.extractLsb'_append_eq_right]

/-! ### Integer loads (44_load_store R805 to R810) -/

theorem odd_of_even {r : Reg} (h : r.toNat % 2 = 0) : r + 1 ≠ 0 := by
  intro e
  have := congrArg BitVec.toNat e
  have := r.isLt
  rw [BitVec.toNat_add] at *
  simp at *
  omega

/-- LDD: the two words of the pair. -/
theorem gives_loadPair {s : State} (h : s.Shaped) {rd : Reg} (even : rd.toNat % 2 = 0) (high low : Word) :
    Gives (.next ((s.setX rd high).setX (rd + 1) low).advance) fun t =>
      t.x rd = (if rd = 0 then 0 else high) ∧ t.x (rd + 1) = low ∧ s.SlotsKeptBut t s.window [rd, rd + 1] ∧
        s.Advanced t ∧ Quietly t ∧ s.KeptBut t [.integers, .counters] := by
  have first : (s.setX rd high).Shaped := ⟨h.1, (State.setX_w_length ..).trans h.2.1, h.2.2⟩
  refine gives_next ⟨?high, ?low, fun slot hslot => ?slots, ⟨rfl, rfl⟩, ⟨rfl, rfl⟩, ?kept⟩
  case high => rw [State.x_advance, x_setX_ne first (next_reg_ne rd).symm, x_setX_same h]
  case low => rw [State.x_advance, x_setX_same first, if_neg (odd_of_even even)]
  case slots =>
    exact (readSlot_setX_ne (s.setX rd high) low (hslot (rd + 1) (by simp))).trans
      (readSlot_setX_ne s high (hslot rd (by simp)))
  case kept =>
    exact keptBut_of ⟨rfl, (State.setX_w_length ..).trans (State.setX_w_length ..), rfl, rfl, rfl, rfl⟩ (.inl (by simp))
      (.inr fun _ => rfl) (.inl (by simp)) (.inr rfl) (.inr rfl) (.inr rfl) (.inr rfl) (.inr rfl)
      (.inr ⟨fun _ => rfl, rfl, rfl⟩)

/-- Settles O30: behind its guards each is a write of the value read, `gives_alu`, or of a pair. -/
theorem integerLoads : Obligations.IntegerLoads := by
  intro s rd rs1 op2 h ea byte word gets
  have loads (v : Word) := gives_alu h rd v
  simp only [gets, byte, word, bytes_eq_read4, byte_eq_read1, add_zero]
  refine ⟨loads _, loads _, fun half => ⟨gives_whenAligned half (loads _), gives_whenAligned half (loads _)⟩,
    fun whole => gives_whenAligned whole (loads _), fun double even => ?_⟩
  exact gives_evenPair even (gives_whenAligned double (gives_loadPair h even _ _))

/-! ### Stores (44_load_store R811 to R816, R824 to R826) -/

/-- Settles O31: behind its guards each is `gives_store` at the bytes of its register. -/
theorem stores : Obligations.Stores := by
  intro s rd rs1 op2 ea word stores allocatable
  have one {bytes : List Byte} (hl : bytes.length ≤ 8) : Gives (store ea bytes s) fun t =>
      s.Stores ea bytes t ∧ s.KeptBut t [.counters, .memory] := gives_store hl allocatable
  have half := bytesOfHalf_low (s.x rd)
  have pair := bytesOfDouble_append (s.x rd) (s.x (rd + 1))
  have floatPair := bytesOfDouble_append (s.fr rd) (s.fr (rd + 1))
  refine ⟨one (by simp), fun ha => ?sth, fun ha => ?st, fun ha even => ?std,
    fun hef => ⟨fun ha => ⟨?stf, ?stfsr⟩, fun ha even => ?stdf⟩⟩
  case sth => exact gives_whenAligned ha (half ▸ one (by simp))
  case st => exact gives_whenAligned ha (one (by simp))
  case std => exact gives_evenPair even (gives_whenAligned ha (pair ▸ one (by simp)))
  case stf => exact gives_fpEnabled hef (gives_whenAligned ha (one (by simp)))
  case stfsr => exact gives_fpEnabled hef (gives_whenAligned ha (one (by simp)))
  case stdf =>
    exact gives_evenPair even (gives_fpEnabled hef (gives_whenAligned ha (floatPair ▸ one (by simp))))

/-- Settles O32: both are `gives_storeLoading` at what they read before the store. -/
theorem atomicAccess : Obligations.AtomicAccess := by
  intro s rd rs1 op2 h ea v does allocatable
  have access {bytes : List Byte} (hl : bytes.length ≤ 8) (loaded : Word) :=
    (gives_storeLoading h hl allocatable rd loaded).imp fun t ⟨stored, written, kept⟩ =>
      (⟨written, stored, kept⟩ : s.WritesX rd loaded t ∧ s.Stores ea bytes t ∧
        s.KeptBut t [.integers, .counters, .memory])
  exact ⟨access (by simp) _, fun ha => gives_whenAligned ha (access (by simp) _)⟩

theorem exec_ldstub (s : State) (rd rs1 : Reg) (op2 : Op2) : exec (.ldstub rd rs1 op2) s =
    storeThen (s.address rs1 op2) [0xFF]
      (fun t => t.setX rd ((s.mem.read1 (s.address rs1 op2)).zeroExtend 32)) s := rfl

/-- Settles O36: behind its guards each is a store, which answers as `ensure` does and applies no other update. -/
theorem allocationFailureStops : Obligations.AllocationFailureStops := by
  intro s rd rs1 op2 level ea stops hfail
  have fails (bytes : List Byte) (after : State → State) :
      storeThen (s.address rs1 op2) bytes after s = .fault (.allocationFailed level) := storeThen_fault hfail bytes after
  have aligned {n : Nat} (ha : ea.toNat % n = 0) (bytes : List Byte) (after : State → State) :
      whenAligned (s.address rs1 op2) n s (storeThen (s.address rs1 op2) bytes after s) =
        .fault (.allocationFailed level) := (whenAligned_of ha ..).trans (fails ..)
  refine ⟨fails _ _, (exec_ldstub ..).trans (fails _ _), fun ha => aligned ha _ _, fun ha => ⟨aligned ha _ _, aligned ha _ _⟩,
    fun ha even => (evenPair_even even ..).trans (aligned ha _ _), fun hef => ⟨fun ha => ?word, fun ha even => ?double⟩⟩
  case word => exact ⟨(fpEnabled_on hef _).trans (aligned ha _ _), (fpEnabled_on hef _).trans (aligned ha _ _)⟩
  case double => exact (evenPair_even even ..).trans ((fpEnabled_on hef _).trans (aligned ha _ _))

/-! ### Floating-point loads (44_load_store R821 to R823) -/

theorem castToFSR_load (p v : Word) : castToFSR (Fsr.load p v) =
    { castToFSR v with ver := Fsr.ver p, ftt := Fsr.ftt p, qne := Fsr.qne p } := by
  simp [castToFSR]

/-- An update of the f registers alone, and the advance. -/
theorem keptBut_floats (s : State) (f : Vector Word 32) :
    s.KeptBut ({ s with f := f } : State).advance [.floats, .counters] :=
  keptBut_of ⟨rfl, rfl, rfl, rfl, rfl, rfl⟩ (.inr fun _ => rfl) (.inl (by simp)) (.inl (by simp)) (.inr rfl)
    (.inr rfl) (.inr rfl) (.inr rfl) (.inr rfl) (.inr ⟨fun _ => rfl, rfl, rfl⟩)

theorem keptBut_fsr (s : State) (v : Word) : s.KeptBut (s.setFsr v).advance [.fsr, .counters] :=
  keptBut_of ⟨rfl, rfl, rfl, rfl, rfl, rfl⟩ (.inr fun _ => rfl) (.inr fun _ => rfl) (.inl (by simp)) (.inr rfl)
    (.inl (by simp)) (.inr rfl) (.inr rfl) (.inr rfl) (.inr ⟨fun _ => rfl, rfl, rfl⟩)

/-- Settles O33: behind its guards each writes what it read. -/
theorem floatLoads : Obligations.FloatLoads := by
  intro s rd rs1 op2 hef ea byte word done
  simp only [byte, word, bytes_eq_read4, add_zero]
  refine ⟨fun ha => ?ldf, fun ha even => ?lddf, fun ha => ?ldfsr⟩
  case ldf =>
    exact gives_fpEnabled hef (gives_whenAligned ha
      (gives_next ⟨writesF_setF s rd _, ⟨rfl, rfl⟩, ⟨rfl, rfl⟩, keptBut_floats s _⟩))
  case lddf =>
    exact gives_evenPair even (gives_fpEnabled hef (gives_whenAligned ha
      (gives_next ⟨writesFd_setFd s rd _, ⟨rfl, rfl⟩, ⟨rfl, rfl⟩, keptBut_floats s _⟩)))
  case ldfsr =>
    exact gives_fpEnabled hef (gives_whenAligned ha
      (gives_next ⟨castToFSR_load .., ⟨rfl, rfl⟩, ⟨rfl, rfl⟩, keptBut_fsr s _⟩))

end Sys2Proof.Machine

/-! PROOF. The FPops: the pair checks and the FPU enable pass, and the two ends of the sequence of R902 say the rest
(45_floating_point R901, R902, R905, R910 to R933). -/

namespace Sys2Proof.Machine

/-! ### The sign bit (R910 to R912) -/

theorem sign_append (v : Word) : (BitVec.ofBool v.msb ++ v.extractLsb' 0 31 : Word) = v := by
  have top : BitVec.ofBool v.msb = v.extractLsb' 31 1 := by
    ext j hj
    obtain rfl : j = 0 := by omega
    rw [BitVec.getElem_ofBool, BitVec.getElem_extractLsb', BitVec.msb_eq_getLsbD_last]
  rw [top, BitVec.extractLsb'_append_extractLsb'_eq_extractLsb' (by rfl)]
  exact BitVec.extractLsb'_eq_self

theorem xor_sign (v : Word) : v ^^^ 0x80000000 = (BitVec.ofBool (!v.msb) ++ v.extractLsb' 0 31 : Word) := by
  conv_lhs => rw [← sign_append v, show (0x80000000 : Word) = (1#1 ++ 0#31 : Word) by decide]
  refine BitVec.xor_append.trans ?_
  rw [BitVec.xor_zero]
  cases v.msb <;> rfl

theorem and_magnitude (v : Word) : v &&& 0x7FFFFFFF = (BitVec.ofBool false ++ v.extractLsb' 0 31 : Word) := by
  conv_lhs => rw [← sign_append v, show (0x7FFFFFFF : Word) = (0#1 ++ BitVec.allOnes 31 : Word) by decide]
  refine BitVec.and_append.trans ?_
  rw [BitVec.and_allOnes, BitVec.and_zero]
  rfl

/-- The end of the moves: with no exception the accrued ones stay as they were, whatever tem is. -/
theorem gives_fpMove (s : State) (rd : Reg) (v : Word) :
    Gives (fpComplete 0 (s.setF rd v) s) fun t =>
      s.WritesF rd v t ∧ castToFSR t.fsr = { castToFSR s.fsr with cexc := 0, ftt := 0 } ∧ s.Advanced t ∧ Quietly t ∧
        s.KeptBut t [.floats, .fsr, .counters] := by
  have h := gives_fpSingleResult s rd v (e := 0) BitVec.zero_and
  rwa [show Fsr.aexc s.fsr ||| 0 = (castToFSR s.fsr).aexc from BitVec.or_zero] at h

section
variable {s : State} (hef : Psr.ef s.psr = true) (rd rs2 : Reg)
include hef

theorem exec_fmovs_on : exec (.fmovs rd rs2) s = fpComplete 0 (s.setF rd (s.fr rs2)) s := fpEnabled_on hef _
theorem exec_fnegs_on : exec (.fnegs rd rs2) s = fpComplete 0 (s.setF rd (s.fr rs2 ^^^ 0x80000000)) s :=
  fpEnabled_on hef _
theorem exec_fabss_on : exec (.fabss rd rs2) s = fpComplete 0 (s.setF rd (s.fr rs2 &&& 0x7FFFFFFF)) s :=
  fpEnabled_on hef _

end

/-- Settles O38: the three are the shared end `gives_fpMove`; the mask of each leaves the low 31 bits. -/
theorem floatMoves : Obligations.FloatMoves := by
  intro s rd rs2 hef v gets
  simp only [gets, exec_fmovs_on hef, exec_fnegs_on hef, exec_fabss_on hef, v, xor_sign, and_magnitude, sign_append]
  exact ⟨gives_fpMove s rd _, gives_fpMove s rd _, gives_fpMove s rd _⟩

/-! ### Results (R902) -/

/-- Settles O39: behind its guards each is `fpSingle`, whose end `gives_fpSingleResult` says. -/
theorem floatSingleResults : Obligations.FloatSingleResults := by
  intro s rd rs1 rs2 hef single double gets
  have result (op : FpOp) (a b : BitVec 64) (he : (s.compute op a b).2 &&& Fsr.tem s.fsr = 0) :=
    gives_fpEnabled hef (gives_fpSingleResult s rd ((s.compute op a b).1.extractLsb' 0 32) he)
  refine ⟨result _ _ _, result _ _ _, result _ _ _, result _ _ _, result _ _ _, result _ _ _, result _ _ _,
    fun even => ⟨fun he => ?dtos, fun he => ?dtoi⟩⟩
  case dtos => exact gives_evenPair even (result _ _ _ he)
  case dtoi => exact gives_evenPair even (result _ _ _ he)

/-- Settles O40: behind its guards each is `fpDouble`, whose end `gives_fpDoubleResult` says. -/
theorem floatDoubleResults : Obligations.FloatDoubleResults := by
  intro s rd rs1 rs2 hef evenRd single double gets
  have result (op : FpOp) (a b : BitVec 64) (he : (s.compute op a b).2 &&& Fsr.tem s.fsr = 0) :=
    gives_evenPair (s := s) evenRd (gives_fpEnabled hef (gives_fpDoubleResult s rd (s.compute op a b).1 he))
  refine ⟨result _ _ _, result _ _ _, result _ _ _, fun even2 he => gives_evenPair even2 (result _ _ _ he),
    fun even1 even2 => ?binary⟩
  have binary (op : FpOp) (he : (s.compute op (s.fd rs1) (s.fd rs2)).2 &&& Fsr.tem s.fsr = 0) :=
    gives_evenPair (s := s) even1 (gives_evenPair (s := s) even2 (result op _ _ he))
  exact ⟨binary _, binary _, binary _, binary _⟩

/-- Settles O41: behind its guards each is `fpCompare`, whose end `gives_fpCompare` says. -/
theorem floatCompares : Obligations.FloatCompares := by
  intro s rs1 rs2 hef gets
  have result (r : BitVec 2 × BitVec 5) (he : r.2 &&& Fsr.tem s.fsr = 0) :=
    gives_fpEnabled hef (gives_fpCompare s r he)
  refine ⟨result _, result _, fun even1 even2 => ⟨fun he => ?_, fun he => ?_⟩⟩
  · exact gives_evenPair even1 (gives_evenPair even2 (result _ he))
  · exact gives_evenPair even1 (gives_evenPair even2 (result _ he))

/-! ### fp_exception (R901, R902) -/

theorem packFSR_ieeeTrap (p : Word) (e : BitVec 5) :
    packFSR { castToFSR p with cexc := e, ftt := 1 } = Fsr.ieeeTrap p e := by
  rw [← castToFSR_ieeeTrap, packFSR_castToFSR]

theorem packFSR_unimplementedTrap (p : Word) :
    packFSR { castToFSR p with ftt := 3 } = Fsr.unimplementedTrap p := by
  rw [← castToFSR_unimplementedTrap, packFSR_castToFSR]

/-- An enabled exception: the FSR gets cexc and ftt = 1, and what the FPop would have written is not written. -/
theorem traps_fpComplete {s : State} (h : s.Shaped) (hef : Psr.ef s.psr = true) (written : State) {e : BitVec 5}
    (he : e &&& (castToFSR s.fsr).tem ≠ 0) :
    Traps 0x08 (packFSR { castToFSR s.fsr with cexc := e, ftt := 1 }) s (fpEnabled s (fpComplete e written s)) := by
  rw [packFSR_ieeeTrap]
  refine traps_fpEnabled hef ?_
  rw [fpComplete_raises s written he]
  exact traps_raise_setFsr h .fpException _

theorem traps_unimplementedFPop {s : State} (h : s.Shaped) (hef : Psr.ef s.psr = true) :
    Traps 0x08 (packFSR { castToFSR s.fsr with ftt := 3 }) s (unimplementedFPop s) := by
  rw [packFSR_unimplementedTrap]
  exact traps_fpEnabled hef (traps_raise_setFsr h .fpException _)

/-- Settles O42: behind its guards each FPop ends in `fpComplete`, which traps on an enabled exception. -/
theorem floatExceptionTraps : Obligations.FloatExceptionTraps := by
  intro s rd rs1 rs2 opf h hef single double raises exc unimplemented
  have enabled (written : State) {e : BitVec 5} (he : e &&& (castToFSR s.fsr).tem ≠ 0) :=
    traps_fpComplete h hef written he
  have pair {r : Reg} (even : r.toNat % 2 = 0) (written : State) {e : BitVec 5}
      (he : e &&& (castToFSR s.fsr).tem ≠ 0) := traps_evenPair even (enabled written he)
  have catchAll := traps_unimplementedFPop h hef
  refine ⟨catchAll, catchAll, enabled _, enabled _, enabled _, enabled _, enabled _, enabled _, enabled _, enabled _,
    enabled _, fun even2 => ⟨pair even2 _, pair even2 _⟩, fun evenRd => ⟨pair evenRd _, pair evenRd _⟩,
    fun evenRd even2 he => traps_evenPair even2 (pair evenRd _ he), fun even1 even2 => ?compares,
    fun evenRd even1 even2 => ?binary⟩
  case compares =>
    exact ⟨fun he => traps_evenPair even1 (pair even2 _ he), fun he => traps_evenPair even1 (pair even2 _ he)⟩
  case binary =>
    have three (written : State) {e : BitVec 5} (he : e &&& (castToFSR s.fsr).tem ≠ 0) :=
      traps_evenPair even1 (traps_evenPair even2 (pair evenRd written he))
    exact ⟨three _, three _, three _, three _⟩

end Sys2Proof.Machine

/-! PROOF. What no instruction reads: the BreakpointTable, the host's view, the last-step record, and the model's own
report and list of writes (10_state R155, 60_exceptions R1048). An instruction is built from guards and updates, and each
of them passes those fields through. -/

namespace Sys2Proof.Machine

/-- The fields that the host and the step own. -/
structure HostFields where
  bps : BreakpointTable
  viewOverride : Option Nat
  last : LastStep
  report : Report
  writes : List DataWrite

def State.withHost (s : State) (h : HostFields) : State :=
  { s with bps := h.bps, viewOverride := h.viewOverride, last := h.last, report := h.report, writes := h.writes }

/-- The answer with other host fields in its next state; its report and writes are the instruction's own. -/
def resultWithHost (h : HostFields) : Result → Result
  | .next t => .next { t with bps := h.bps, viewOverride := h.viewOverride, last := h.last }
  | .fault f => .fault f
  | .refused f => .refused f

/-- What the function gives does not depend on the host fields. -/
def Blind {α : Sort*} (f : State → α) : Prop := ∀ s h, f (s.withHost h) = f s

/-- The answer does not depend on the host fields, and its next state has the first three of them. -/
def Invisible (f : State → Result) : Prop := ∀ s h, f (s.withHost h) = resultWithHost h (f s)

/-- The update passes the host fields on. -/
def PassesHost (f : State → State) : Prop := ∀ s h, f (s.withHost h) = (f s).withHost h

/-! ### The guards -/

/-- A guard looks at a condition that no host field enters. -/
theorem invisible_ite {c : State → Prop} [∀ s, Decidable (c s)] {f g : State → Result} (hc : Blind c)
    (hf : Invisible f) (hg : Invisible g) : Invisible fun s => if c s then f s else g s := by
  intro s h
  by_cases hs : c s
  · simp only [if_pos hs, if_pos ((hc s h).mpr hs), hf s h]
  · simp only [if_neg hs, if_neg (mt (hc s h).mp hs), hg s h]

theorem invisible_raise (t : TrapType) : Invisible (raise t) :=
  invisible_ite (c := fun s => Psr.et s.psr = true) (fun _ _ => rfl) (fun _ _ => rfl) fun _ _ => rfl

/-- A trap of an FPop finds an FSR that no host field enters. -/
theorem invisible_raise_setFsr (t : TrapType) {v : State → Word} (hv : Blind v) :
    Invisible fun s => raise t (s.setFsr (v s)) := fun s h => by
  have commutes := invisible_raise t (s.setFsr (v s)) h
  rw [← commutes, ← hv s h]
  rfl

theorem invisible_illegal : Invisible illegal := fun _ _ => rfl

section
variable {body : State → Result} (hbody : Invisible body)
include hbody

theorem invisible_privileged : Invisible fun s => privileged s (body s) :=
  invisible_ite (fun _ _ => rfl) hbody (invisible_raise .privilegedInstruction)

theorem invisible_fpEnabled : Invisible fun s => fpEnabled s (body s) :=
  invisible_ite (fun _ _ => rfl) hbody (invisible_raise .fpDisabled)

theorem invisible_evenPair (r : Reg) : Invisible fun s => evenPair r s (body s) :=
  invisible_ite (fun _ _ => rfl) invisible_illegal hbody

theorem invisible_whenAligned (rs1 : Reg) (op2 : Op2) (n : Nat) :
    Invisible fun s => whenAligned (s.address rs1 op2) n s (body s) :=
  invisible_ite (fun _ _ => rfl) hbody (invisible_raise .memAddressNotAligned)

end

/-! ### The shared forms -/

theorem invisible_taggedTrap (rd : Reg) {v : State → Word} {i : State → Icc} {o : State → Bool} (hv : Blind v)
    (hi : Blind i) (ho : Blind o) : Invisible fun s => taggedTrapResult rd (v s) (i s) (o s) s :=
  invisible_ite (fun s h => by rw [ho s h]) (invisible_raise .tagOverflow) fun s h => by
    simp only [hv s h, hi s h]; rfl

theorem invisible_div (rd : Reg) {d : State → Word} {q : State → Word × Bool} (hd : Blind d) (hq : Blind q) :
    Invisible fun s => divResult rd (d s) (q s) s :=
  invisible_ite (fun s h => by rw [hd s h]) (invisible_raise .divisionByZero) fun s h => by
    simp only [hq s h]; rfl

theorem invisible_divCc (rd : Reg) {d : State → Word} {q : State → Word × Bool} (hd : Blind d) (hq : Blind q) :
    Invisible fun s => divCcResult rd (d s) (q s) s :=
  invisible_ite (fun s h => by rw [hd s h]) (invisible_raise .divisionByZero) fun s h => by
    simp only [hq s h]; rfl

theorem invisible_branch {p : State → Bool} (hp : Blind p) (k a : Bool) (d : BitVec 22) :
    Invisible fun s => .next (branch (p s) k a d s) := by
  have cases_apart : (fun s => (.next (branch (p s) k a d s) : Result)) = fun s =>
      if p s = true then
        if (a && k && s.cfg.annulTakenBA) = true then
          .next (s.goTo (branchTarget s.pc d) (branchTarget s.pc d + 4))
        else .next (s.goTo s.npc (branchTarget s.pc d))
      else if a = true then .next (s.goTo (s.npc + 4) (s.npc + 8))
      else .next (s.goTo s.npc (s.npc + 4)) := by
    funext s
    unfold branch
    split_ifs <;> rfl
  rw [cases_apart]
  exact invisible_ite (fun s h => by rw [hp s h])
    (invisible_ite (fun _ _ => rfl) (fun _ _ => rfl) fun _ _ => rfl)
    (invisible_ite (fun _ _ => rfl) (fun _ _ => rfl) fun _ _ => rfl)

theorem invisible_branchFcc (c : FpCond) (k a : Bool) (d : BitVec 22) : Invisible (branchFcc c k a d) :=
  invisible_fpEnabled (invisible_branch (fun _ _ => rfl) k a d)

/-- A store looks at memory and the configuration. -/
theorem invisible_storeThen (rs1 : Reg) (op2 : Op2) {bytes : State → List Byte} {after : State → State → State}
    (hb : Blind bytes) (ha : ∀ s, PassesHost (after s)) (hafter : Blind after) :
    Invisible fun s => storeThen (s.address rs1 op2) (bytes s) (after s) s := by
  intro s h
  simp only [storeThen, hb s h, hafter s h]
  change (match s.mem.write s.cfg (s.address rs1 op2) (bytes s) with
    | .error l => (.fault (.allocationFailed l) : Result)
    | .ok m => .next { (after s (State.withHost { s with mem := m } h)).advance with
        writes := [⟨s.address rs1 op2, bytes s⟩] }) = _
  simp only [ha s _ h]
  cases s.mem.write s.cfg (s.address rs1 op2) (bytes s) <;> rfl

theorem invisible_store (rs1 : Reg) (op2 : Op2) {bytes : State → List Byte} (hb : Blind bytes) :
    Invisible fun s => store (s.address rs1 op2) (bytes s) s :=
  invisible_storeThen rs1 op2 (after := fun _ => id) hb (fun _ _ _ => rfl) fun _ _ => rfl

/-- The end of an FPop. -/
theorem invisible_fpComplete {e : State → BitVec 5} {written : State → State} (he : Blind e)
    (hw : PassesHost written) : Invisible fun s => fpComplete (e s) (written s) s :=
  invisible_ite (fun s h => by rw [he s h]; rfl)
    (invisible_raise_setFsr .fpException fun s h => by rw [he s h]; rfl) fun s h => by
      simp only [he s h, hw s h]; rfl

theorem invisible_fpSingle (op : FpOp) (rd : Reg) {a b : State → BitVec 64} (ha : Blind a) (hb : Blind b) :
    Invisible fun s => fpEnabled s (fpSingle op rd (a s) (b s) s) :=
  invisible_fpEnabled (invisible_fpComplete (fun s h => by rw [ha s h, hb s h]; rfl)
    fun s h => by rw [ha s h, hb s h]; rfl)

theorem invisible_fpDouble (op : FpOp) (rd : Reg) {a b : State → BitVec 64} (ha : Blind a) (hb : Blind b) :
    Invisible fun s => fpEnabled s (fpDouble op rd (a s) (b s) s) :=
  invisible_fpEnabled (invisible_fpComplete (fun s h => by rw [ha s h, hb s h]; rfl)
    fun s h => by rw [ha s h, hb s h]; rfl)

theorem invisible_fpCompare {r : State → BitVec 2 × BitVec 5} (hr : Blind r) :
    Invisible fun s => fpEnabled s (fpCompare (r s) s) :=
  invisible_fpEnabled (invisible_fpComplete (fun s h => by rw [hr s h]) fun s h => by rw [hr s h]; rfl)

theorem invisible_unimplementedFPop : Invisible unimplementedFPop :=
  invisible_fpEnabled (invisible_raise_setFsr .fpException fun _ _ => rfl)

/-! ### Every instruction -/

theorem exec_invisible (i : Instr) : Invisible (exec i) := by
  cases i with
  | add | addcc | addx | addxcc | sub | subcc | subx | subxcc | and | andcc | andn | andncc | or | orcc | orn | orncc
  | xor | xorcc | xnor | xnorcc | sll | srl | sra | sethi | nop | taddcc | tsubcc | mulscc | umul | smul | umulcc
  | smulcc | call | rdy | wry | stbar | flush | ldsb | ldub | unimp => exact fun _ _ => rfl
  | taddcctv | tsubcctv => exact invisible_taggedTrap _ (fun _ _ => rfl) (fun _ _ => rfl) fun _ _ => rfl
  | udiv | sdiv => exact invisible_div _ (fun _ _ => rfl) fun _ _ => rfl
  | udivcc | sdivcc => exact invisible_divCc _ (fun _ _ => rfl) fun _ _ => rfl
  | ba | bn | bne | be | bg | ble | bge | bl | bgu | bleu | bcc | bcs | bpos | bneg | bvc | bvs =>
    exact invisible_branch (fun _ _ => rfl) _ _ _
  | fba | fbn | fbu | fbg | fbug | fbl | fbul | fblg | fbne | fbe | fbue | fbge | fbuge | fble | fbule | fbo =>
    exact invisible_branchFcc _ _ _ _
  | jmpl => exact invisible_whenAligned (fun _ _ => rfl) _ _ _
  | rett =>
    exact invisible_ite (fun _ _ => rfl) invisible_illegal (invisible_privileged
      (invisible_ite (fun _ _ => rfl) (invisible_raise _) (invisible_whenAligned (fun _ _ => rfl) _ _ _)))
  | save | restore => exact invisible_ite (fun _ _ => rfl) (invisible_raise _) fun _ _ => rfl
  | rdpsr | rdwim | rdtbr | wrwim | wrtbr => exact invisible_privileged fun _ _ => rfl
  | wrpsr => exact invisible_privileged (invisible_ite (fun _ _ => rfl) invisible_illegal fun _ _ => rfl)
  | ldsh | lduh | ld => exact invisible_whenAligned (fun _ _ => rfl) _ _ _
  | ldd => exact invisible_evenPair (invisible_whenAligned (fun _ _ => rfl) _ _ _) _
  | stb => exact invisible_store _ _ fun _ _ => rfl
  | sth | st => exact invisible_whenAligned (invisible_store _ _ fun _ _ => rfl) _ _ _
  | std => exact invisible_evenPair (invisible_whenAligned (invisible_store _ _ fun _ _ => rfl) _ _ _) _
  | ldstub rd rs1 op2 =>
    exact invisible_storeThen rs1 op2 (bytes := fun _ => [0xFF])
      (after := fun s t => t.setX rd ((s.mem.read1 (s.address rs1 op2)).zeroExtend 32)) (fun _ _ => rfl)
      (fun _ _ _ => rfl) fun _ _ => rfl
  | swap =>
    exact invisible_whenAligned (invisible_storeThen _ _ (fun _ _ => rfl) (fun _ _ _ => rfl) fun _ _ => rfl) _ _ _
  | ldf | ldfsr => exact invisible_fpEnabled (invisible_whenAligned (fun _ _ => rfl) _ _ _)
  | lddf => exact invisible_evenPair (invisible_fpEnabled (invisible_whenAligned (fun _ _ => rfl) _ _ _)) _
  | stf | stfsr => exact invisible_fpEnabled (invisible_whenAligned (invisible_store _ _ fun _ _ => rfl) _ _ _)
  | stdf =>
    exact invisible_evenPair (invisible_fpEnabled (invisible_whenAligned (invisible_store _ _ fun _ _ => rfl) _ _ _)) _
  | fmovs | fnegs | fabss =>
    exact invisible_fpEnabled (invisible_fpComplete (e := fun _ => 0) (fun _ _ => rfl) fun _ _ => rfl)
  | fsqrts | fadds | fsubs | fmuls | fdivs | fitos | fstoi =>
    exact invisible_fpSingle _ _ (fun _ _ => rfl) fun _ _ => rfl
  | fdtos | fdtoi => exact invisible_evenPair (invisible_fpSingle _ _ (fun _ _ => rfl) fun _ _ => rfl) _
  | fsmuld | fitod | fstod => exact invisible_evenPair (invisible_fpDouble _ _ (fun _ _ => rfl) fun _ _ => rfl) _
  | fsqrtd =>
    exact invisible_evenPair (invisible_evenPair (invisible_fpDouble _ _ (fun _ _ => rfl) fun _ _ => rfl) _) _
  | faddd | fsubd | fmuld | fdivd =>
    exact invisible_evenPair
      (invisible_evenPair (invisible_evenPair (invisible_fpDouble _ _ (fun _ _ => rfl) fun _ _ => rfl) _) _) _
  | fcmps | fcmpes => exact invisible_fpCompare fun _ _ => rfl
  | fcmpd | fcmped => exact invisible_evenPair (invisible_evenPair (invisible_fpCompare fun _ _ => rfl) _) _
  | fpop1Unimplemented | fpop2Unimplemented => exact invisible_unimplementedFPop

/-- Settles O54: every instruction is built from guards and updates that pass the host fields through. -/
theorem hostStateIsInvisible : Obligations.HostStateIsInvisible := by
  intro i s b v l r w
  have commutes := exec_invisible i s ⟨b, v, l, r, w⟩
  refine Eq.trans commutes ?_
  cases exec i s <;> rfl

end Sys2Proof.Machine

/-! PROOF. Rounding into a format by the value that the rounded bits stand for, and the numbers that a format holds
(45_floating_point R903, R926, R929). -/

namespace Sys2Proof.Machine

/-! ### Values with a common exponent -/

/-- A number written at a lower exponent. -/
theorem dyadic_lower (m : Nat) {e x : Int} (h : x ≤ e) : dyadic (m * 2 ^ (e - x).toNat) x = dyadic m e := by
  have shift := two_zpow_eq (e - x)
  rw [show (-(e - x)).toNat = 0 by omega, pow_zero, mul_one] at shift
  rw [dyadic, dyadic]
  push_cast
  rw [← shift, mul_assoc, ← zpow_add₀ two_ne_zero, sub_add_cancel]

theorem dyadic_le_iff {m n : Nat} (e : Int) : dyadic m e ≤ dyadic n e ↔ m ≤ n := by
  rw [dyadic, dyadic, mul_le_mul_iff_left₀ (two_zpow_pos e), Nat.cast_le]

theorem dyadic_inj {m n : Nat} (e : Int) : dyadic m e = dyadic n e ↔ m = n := by
  rw [dyadic, dyadic, mul_left_inj' (two_zpow_pos e).ne', Nat.cast_inj]

/-- A power of two, by its exponent alone. -/
theorem dyadic_two_pow (k : Nat) (e : Int) : dyadic (2 ^ k) e = 2 ^ (k + e) := by
  rw [dyadic, zpow_add₀ two_ne_zero]; simp

theorem two_zpow_le {d e : Int} (h : d ≤ e) : (2 : ℝ) ^ d ≤ 2 ^ e := zpow_le_zpow_right₀ one_le_two h

/-- A number lies between the powers of two that its leading bit gives. -/
theorem two_zpow_le_dyadic {m : Nat} (hm : m ≠ 0) (e : Int) : (2 : ℝ) ^ (m.log2 + e) ≤ dyadic m e := by
  rw [← dyadic_two_pow, dyadic_le_iff]
  exact Nat.log2_self_le hm

theorem dyadic_le_two_zpow (m : Nat) (e : Int) : dyadic m e ≤ (2 : ℝ) ^ (m.log2 + 1 + e) := by
  have bound : dyadic m e ≤ dyadic (2 ^ (m.log2 + 1)) e := (dyadic_le_iff e).2 Nat.lt_log2_self.le
  rwa [dyadic_two_pow] at bound

/-! ### Rounding at a unit -/

theorem roundAt_exact (rd : BitVec 2) (neg : Bool) (m : Nat) {e x : Int} (h : x ≤ e) :
    roundAt rd neg m e x = (m * 2 ^ (e - x).toNat, false) := if_pos h

/-- Rounding depends on the value alone. -/
theorem roundAt_congr (rd : BitVec 2) (neg : Bool) {m n : Nat} {e d : Int} (x : Int) (h : dyadic m e = dyadic n d) :
    roundAt rd neg m e x = roundAt rd neg n d x := by
  rw [roundAt_eq_roundReal, roundAt_eq_roundReal, h]

/-- Rounding a number below a power of two gives at most that power. -/
theorem roundAt_le_two_pow (rd : BitVec 2) (neg : Bool) {m p : Nat} {e x : Int} (h : m.log2 + 1 + e ≤ p + x) :
    (roundAt rd neg m e x).1 ≤ 2 ^ p := by
  refine roundAt_le ?_
  rw [dyadic_two_pow]
  exact (dyadic_le_two_zpow m e).trans (two_zpow_le h)

/-- Rounding a number that reaches a power of two gives at least that power. -/
theorem two_pow_le_roundAt (rd : BitVec 2) (neg : Bool) {m p : Nat} {e x : Int} (hm : m ≠ 0)
    (h : p + x ≤ m.log2 + e) : 2 ^ p ≤ (roundAt rd neg m e x).1 := by
  refine le_roundAt ?_
  rw [dyadic_two_pow]
  exact (two_zpow_le h).trans (two_zpow_le_dyadic hm e)

/-! ### The bits of a rounded number -/

/-- The weight of the last bit that rounding keeps. -/
def Format.lsb (f : Format) (m : Nat) (e : Int) : Int := max (e + m.log2 - f.fracBits) f.minExp

/-- The magnitude bits of a rounded number. -/
def Format.roundedBits (f : Format) (rd : BitVec 2) (neg : Bool) (m : Nat) (e : Int) : Nat :=
  (f.lsb m e - f.minExp).toNat * 2 ^ f.fracBits + (roundAt rd neg m e (f.lsb m e)).1

/-- Whether a rounded number is tiny: with its precision kept it stays below the smallest normal number. -/
def Format.tiny (f : Format) (rd : BitVec 2) (neg : Bool) (m : Nat) (e : Int) : Bool :=
  let free : Int := e + m.log2 - f.fracBits
  decide (free < f.minExp) && !(free + 1 == f.minExp && (roundAt rd neg m e free).1 == 2 ^ (f.fracBits + 1))

section
variable (f : Format) (rd : BitVec 2) (neg : Bool) {m : Nat} {e : Int}

theorem round_zero (e : Int) : f.round rd neg 0 e = (f.signed neg 0, 0) := if_pos rfl

theorem round_of_overflow (hm : m ≠ 0) (h : f.infBits ≤ f.roundedBits rd neg m e) :
    f.round rd neg m e =
      (f.signed neg (if overflowsToInf rd neg then f.infBits else f.infBits - 1), excSet false true false false true) :=
  (if_neg hm).trans (if_pos h)

theorem round_of_fits (hm : m ≠ 0) (h : f.roundedBits rd neg m e < f.infBits) :
    f.round rd neg m e = (f.signed neg (f.roundedBits rd neg m e),
      excSet false false (f.tiny rd neg m e && (roundAt rd neg m e (f.lsb m e)).2) false
        (roundAt rd neg m e (f.lsb m e)).2) :=
  (if_neg hm).trans (if_neg h.not_ge)

theorem minExp_le_lsb (f : Format) (m : Nat) (e : Int) : f.minExp ≤ f.lsb m e := le_max_right ..

/-- Rounding keeps no more bits than the precision, or carries to the next power of two. -/
theorem kept_le : (roundAt rd neg m e (f.lsb m e)).1 ≤ 2 ^ (f.fracBits + 1) :=
  roundAt_le_two_pow rd neg (by unfold Format.lsb; push_cast; omega)

/-- Above the subnormals rounding keeps the whole precision. -/
theorem le_kept (hm : m ≠ 0) (h : f.minExp < f.lsb m e) : 2 ^ f.fracBits ≤ (roundAt rd neg m e (f.lsb m e)).1 :=
  two_pow_le_roundAt rd neg hm (by unfold Format.lsb at h ⊢; omega)

/-- The rounded bits stand for the rounded multiple of the last bit's weight. -/
theorem scaled_roundedBits (hm : m ≠ 0) : f.scaled (f.roundedBits rd neg m e) =
    (roundAt rd neg m e (f.lsb m e)).1 * 2 ^ (f.lsb m e - f.minExp).toNat := by
  have atMost := kept_le f rd neg (m := m) (e := e)
  have atLeast := le_kept f rd neg (e := e) hm
  rw [Format.roundedBits]
  generalize f.lsb m e = x at *
  generalize (roundAt rd neg m e x).1 = kept at *
  obtain ⟨d, hd⟩ : ∃ d, d = (x - f.minExp).toNat := ⟨_, rfl⟩
  rw [← hd]
  have positive : 0 < 2 ^ f.fracBits := by positivity
  rw [pow_succ] at atMost
  rcases Nat.lt_or_ge kept (2 ^ f.fracBits) with subnormal | normal
  · obtain rfl : d = 0 := by have := mt atLeast subnormal.not_ge; omega
    rw [scaled_fields f 0 subnormal, if_pos rfl, pow_zero, mul_one]
  · obtain ⟨r, rfl⟩ := Nat.exists_eq_add_of_le normal
    rcases Nat.lt_or_ge r (2 ^ f.fracBits) with fraction | carry
    · rw [← Nat.add_assoc, ← Nat.succ_mul, scaled_fields f _ fraction, if_neg d.succ_ne_zero, Nat.succ_sub_one]
    · obtain rfl : r = 2 ^ f.fracBits := by omega
      rw [show d * 2 ^ f.fracBits + (2 ^ f.fracBits + 2 ^ f.fracBits) = (d + 2) * 2 ^ f.fracBits + 0 by ring,
        scaled_fields f _ positive, if_neg (by omega), show d + 2 - 1 = d + 1 by omega]
      ring

/-- The rounded bits of a multiple of the last bit's weight are those of the number itself. -/
theorem scaled_roundedBits_of_exact (hm : m ≠ 0) (h : f.lsb m e ≤ e) :
    f.scaled (f.roundedBits rd neg m e) = m * 2 ^ (e - f.minExp).toNat := by
  have least := minExp_le_lsb f m e
  rw [scaled_roundedBits f rd neg hm, roundAt_exact rd neg m h, mul_assoc, ← pow_add]
  congr 2
  omega

/-- A number that needs no rounding and does not overflow keeps its value, with no exception. -/
theorem round_of_exact (hm : m ≠ 0) (exact : f.lsb m e ≤ e) (fits : f.roundedBits rd neg m e < f.infBits) :
    f.round rd neg m e = (f.signed neg (f.roundedBits rd neg m e), 0) := by
  rw [round_of_fits f rd neg hm fits, roundAt_exact rd neg m exact, Bool.and_false]
  exact congrArg (Prod.mk _) (by decide : excSet false false false false false = 0)

end

/-! ### The number that rounded bits stand for -/

/-- Bits are their sign and their magnitude. -/
theorem signed_sign_magnitude {f : Format} (hf : f ∈ [binary32, binary64]) {bits : BitVec 64}
    (h : bits.toNat < 2 ^ (1 + f.expBits + f.fracBits)) : f.signed (f.sign bits) (f.magnitude bits) = bits := by
  have sign : f.sign bits = true ↔ bits.toNat / 2 ^ (f.expBits + f.fracBits) % 2 = 1 := by
    rw [Format.sign, BitVec.getLsbD, Nat.testBit_eq_decide_div_mod_eq, decide_eq_true_iff]
  refine BitVec.eq_of_toNat_eq ?_
  rw [Format.signed, Format.magnitude, BitVec.toNat_ofNat]
  generalize f.sign bits = neg at *
  simp only [List.mem_cons, List.not_mem_nil, or_false] at hf
  rcases hf with rfl | rfl <;>
  · simp only [binary32, binary64, Nat.reduceAdd, Nat.reducePow] at h sign ⊢
    cases neg <;> simp at sign ⊢ <;> omega

/-- Bits below those of infinity stand for the number that `Format.scaled` gives. -/
theorem unpack_signed_scaled {f : Format} (hf : f ∈ [binary32, binary64]) (neg : Bool) {k : Nat} (hk : k < f.infBits) :
    ∃ m e, f.unpack (f.signed neg k) = .fin neg m e ∧ f.minExp ≤ e ∧ m * 2 ^ (e - f.minExp).toNat = f.scaled k := by
  rw [unpack_signed hf neg hk, Format.scaled]
  split_ifs with subnormal
  · exact ⟨k, f.minExp, rfl, le_rfl, by simp⟩
  · generalize k / 2 ^ f.fracBits = q at subnormal
    refine ⟨_, _, rfl, by omega, ?_⟩
    congr 2
    omega

/-- The number that bits stand for has no more bits than its format keeps, at an exponent that the format has. -/
theorem bounds_of_unpack_fin {f : Format} {bits : BitVec 64} {neg : Bool} {m : Nat} {e : Int}
    (h : f.unpack bits = .fin neg m e) : m < 2 ^ (f.fracBits + 1) ∧ f.minExp ≤ e := by
  have fraction := Nat.mod_lt (f.magnitude bits) (Nat.two_pow_pos f.fracBits)
  rw [unpack_eq_of_magnitude] at h
  rw [pow_succ]
  split_ifs at h with below subnormal
  · obtain ⟨-, rfl, rfl⟩ := Datum.fin.inj h
    have := (Nat.div_eq_zero_iff_lt (by positivity)).1 subnormal
    exact ⟨by omega, le_rfl⟩
  · obtain ⟨-, rfl, rfl⟩ := Datum.fin.inj h
    generalize f.magnitude bits / 2 ^ f.fracBits = q at subnormal
    exact ⟨by omega, by omega⟩

theorem lsb_le_of_unpack_fin {f : Format} {bits : BitVec 64} {neg : Bool} {m : Nat} {e : Int} (hm : m ≠ 0)
    (h : f.unpack bits = .fin neg m e) : f.lsb m e ≤ e := by
  obtain ⟨narrow, least⟩ := bounds_of_unpack_fin h
  have := (Nat.log2_lt hm).2 narrow
  unfold Format.lsb
  omega

/-- Settles O46: rounding the number of a datum keeps the bits that stand for it, since no other magnitude has the same
value (`scaled_strictMono`). -/
theorem representableIsExact : Obligations.RepresentableIsExact := by
  intro f hf bits rd neg m e width unpacked
  obtain ⟨rfl, finite, value⟩ := of_unpack_fin unpacked
  have same := signed_sign_magnitude hf width
  rcases eq_or_ne m 0 with rfl | hm
  · have zero : f.magnitude bits = 0 := by
      refine (scaled_strictMono f).injective ?_
      rw [← value, zero_mul, scaled_zero]
    rw [round_zero, ← zero, same]
  · have exact := lsb_le_of_unpack_fin hm unpacked
    have kept : f.roundedBits rd (f.sign bits) m e = f.magnitude bits := by
      refine (scaled_strictMono f).injective ?_
      rw [← value, scaled_roundedBits_of_exact f rd _ hm exact]
    rw [round_of_exact f rd _ hm exact (kept ▸ finite), kept, same]

/-! ### Integers in double -/

/-- A 32-bit integer rounded into double: a datum that stands for the integer, with no exception. -/
theorem round_integer (rd : BitVec 2) (neg : Bool) {m : Nat} (h : m ≤ 2 ^ 31) :
    ∃ r k e, binary64.round rd neg m 0 = (r, 0) ∧ binary64.unpack r = .fin neg k e ∧ dyadic k e = dyadic m 0 := by
  have known : binary64 ∈ [binary32, binary64] := by simp
  rcases eq_or_ne m 0 with rfl | hm
  · have zero : (0 : Nat) < binary64.infBits := by decide
    obtain ⟨k, e, unpacked, least, value⟩ := unpack_signed_scaled known neg zero
    refine ⟨_, k, e, round_zero .., unpacked, ?_⟩
    rw [scaled_zero] at value
    rw [← dyadic_lower k least, value, dyadic, dyadic, Nat.cast_zero, zero_mul, zero_mul]
  · have bits : m.log2 < 32 := (Nat.log2_lt hm).2 (by omega)
    have exact : binary64.lsb m 0 ≤ 0 := by
      simp only [Format.lsb, Format.minExp, binary64]
      omega
    have fits : binary64.roundedBits rd neg m 0 < binary64.infBits := by
      have width := kept_le binary64 rd neg (m := m) (e := 0)
      have place : (binary64.lsb m 0 - binary64.minExp).toNat ≤ 1074 := by
        simp only [Format.minExp, binary64] at exact ⊢
        omega
      simp only [Format.roundedBits, Format.infBits, show binary64.fracBits = 52 from rfl,
        show binary64.expBits = 11 from rfl] at width ⊢
      omega
    obtain ⟨k, e, unpacked, least, value⟩ := unpack_signed_scaled known neg fits
    refine ⟨_, k, e, round_of_exact _ rd neg hm exact fits, unpacked, ?_⟩
    rw [scaled_roundedBits_of_exact _ rd neg hm exact] at value
    rw [← dyadic_lower k least, value]
    exact dyadic_lower m (by simp [Format.minExp, binary64])

/-- A datum that stands for an integer in range converts to that integer, with no exception. -/
theorem toInteger_of_integer {b : BitVec 64} {neg : Bool} {k m : Nat} {e : Int}
    (unpacked : binary64.unpack b = .fin neg k e) (value : dyadic k e = dyadic m 0)
    (range : ¬if neg then 2 ^ 31 < m else 2 ^ 31 ≤ m) :
    toInteger .dtoi b = ((BitVec.ofInt 32 (signedInt neg m)).zeroExtend 64, 0) := by
  have whole : roundAt 1 neg k e 0 = (m, false) := by
    rw [roundAt_congr 1 neg 0 value, roundAt_exact 1 neg m le_rfl]
    simp
  rw [toInteger, show operandFormat .dtoi = binary64 from rfl, unpacked]
  simp only [whole, if_neg range]
  rfl

theorem signedInt_natAbs (n : Int) : signedInt (decide (n < 0)) n.natAbs = n := by
  unfold signedInt
  split_ifs with h <;> simp at h <;> omega

/-- Settles O47: an integer of 32 bits needs no rounding in double (`round_integer`), and rounding back to an integer
depends on the value alone. -/
theorem integersAreExactInDouble : Obligations.IntegersAreExactInDouble := by
  intro rule n rd rd'
  have low := n.two_mul_toInt_lt
  have high := n.le_two_mul_toInt
  obtain ⟨r, k, e, rounded, unpacked, value⟩ :=
    round_integer rd (decide (n.toInt < 0)) (m := n.toInt.natAbs) (by omega)
  refine ⟨r, ?_, ?_⟩
  · have operand : (n.zeroExtend 64).extractLsb' 0 32 = n := by
      ext k hk
      simp [show k < 64 by omega, BitVec.getLsbD_eq_getElem hk]
    rw [← rounded]
    simp only [fpReference, fromInteger, operand]
    rfl
  · have back := toInteger_of_integer unpacked value (by split_ifs with h <;> simp at h <;> omega)
    rw [signedInt_natAbs, BitVec.ofInt_toInt] at back
    exact back

end Sys2Proof.Machine

/-! PROOF. Rounding by direction, overflow and underflow, and the operations on finite operands as roundings of their
exact value (45_floating_point R903, 10_state R121, R122). -/

namespace Sys2Proof.Machine

/-! ### Rounding at a unit, by direction -/

theorem roundsUp_nearest (neg odd : Bool) (twice unit : Nat) :
    roundsUp 0 neg odd twice unit = true ↔ unit < twice ∨ twice = unit ∧ odd = true := by
  change (decide (unit < twice) || (twice == unit && odd)) = true ↔ _
  simp

theorem roundsUp_zero (neg odd : Bool) (twice unit : Nat) : roundsUp 1 neg odd twice unit = false := rfl

theorem roundsUp_up (neg odd : Bool) (twice unit : Nat) :
    roundsUp 2 neg odd twice unit = true ↔ neg = false ∧ twice ≠ 0 := by
  change (!neg && twice != 0) = true ↔ _
  simp

theorem roundsUp_down (neg odd : Bool) (twice unit : Nat) :
    roundsUp 3 neg odd twice unit = true ↔ neg = true ∧ twice ≠ 0 := by
  change (neg && twice != 0) = true ↔ _
  simp

/-- A multiple of the unit is kept in every direction. -/
theorem roundsUp_exact (rd : BitVec 2) (neg odd : Bool) {unit : Nat} (h : 0 < unit) :
    roundsUp rd neg odd 0 unit = false := by
  have other : (0 == unit) = false := by simp; omega
  unfold roundsUp
  split <;> simp [other]

/-- Rounding at a unit above the last bit: the multiple below, or the next one where rounding goes up. -/
theorem roundAt_cases (rd : BitVec 2) (neg : Bool) (m : Nat) {e x : Int} (h : e < x) :
    let unit := 2 ^ (x - e).toNat
    let up := roundsUp rd neg (m / unit % 2 == 1) (2 * (m % unit)) unit
    (roundAt rd neg m e x).2 = (m % unit != 0) ∧
      ((roundAt rd neg m e x).1 = m / unit ∧ up = false ∨ (roundAt rd neg m e x).1 = m / unit + 1 ∧ up = true) := by
  intro unit up
  have rounded : roundAt rd neg m e x = (if up then m / unit + 1 else m / unit, m % unit != 0) := if_neg h.not_ge
  rw [rounded]
  refine ⟨rfl, ?_⟩
  cases up <;> simp

/-! ### Rounding into a format: overflow and underflow -/

/-- The magnitude bits reach those of infinity exactly when the number, rounded at the weight of the last bit of the
largest finite numbers, has one bit more than they have. -/
theorem overflow_iff {f : Format} (hf : f ∈ [binary32, binary64]) (rd : BitVec 2) (neg : Bool) {m : Nat} (e : Int)
    (hm : m ≠ 0) : f.infBits ≤ f.roundedBits rd neg m e ↔
      2 ^ (f.fracBits + 1) ≤ (roundAt rd neg m e (2 ^ (f.expBits - 1) - 1 - f.fracBits)).1 := by
  obtain ⟨top, htop⟩ : ∃ top : Int, top = 2 ^ (f.expBits - 1) - 1 - f.fracBits := ⟨_, rfl⟩
  have least := minExp_le_lsb f m e
  have atMost := kept_le f rd neg (m := m) (e := e)
  have atLeast := le_kept f rd neg (e := e) hm
  have minTop : f.minExp < top := by
    simp only [List.mem_cons, List.not_mem_nil, or_false] at hf
    rcases hf with rfl | rfl <;> simp [htop, Format.minExp, binary32, binary64]
  have below (h : f.lsb m e < top) : (roundAt rd neg m e top).1 ≤ 2 ^ f.fracBits :=
    roundAt_le_two_pow rd neg (by unfold Format.lsb at h; omega)
  have above (h : top < f.lsb m e) : 2 ^ (f.fracBits + 1) ≤ (roundAt rd neg m e top).1 :=
    two_pow_le_roundAt rd neg hm (by unfold Format.lsb at h; push_cast; omega)
  have at_top (h : f.lsb m e = top) : (roundAt rd neg m e (f.lsb m e)).1 = (roundAt rd neg m e top).1 := by rw [h]
  rw [Format.roundedBits, ← htop]
  generalize f.lsb m e = x at *
  generalize (roundAt rd neg m e x).1 = kept at *
  generalize (roundAt rd neg m e top).1 = atTop at *
  simp only [List.mem_cons, List.not_mem_nil, or_false] at hf
  rcases hf with rfl | rfl <;>
  · simp only [Format.infBits, Format.minExp, binary32, binary64, Nat.reduceAdd, Nat.reduceSub, Nat.reducePow,
      Nat.reduceMul, Int.reducePow, Nat.cast_ofNat, Int.reduceSub] at *
    rcases lt_trichotomy x top with h | h | h
    · have := below h; omega
    · have := at_top h; omega
    · have := above h; omega

/-- A rounded number is tiny when, its precision kept, it does not reach the smallest normal number. -/
theorem tiny_iff (f : Format) (rd : BitVec 2) (neg : Bool) {m : Nat} (e : Int) (hm : m ≠ 0) :
    let precise : Int := e + m.log2 - f.fracBits
    f.tiny rd neg m e = true ↔
      (roundAt rd neg m e precise).1 < 2 ^ (f.minExp + f.fracBits - precise).toNat := by
  intro precise
  have low : 2 ^ f.fracBits ≤ (roundAt rd neg m e precise).1 := two_pow_le_roundAt rd neg hm (by omega)
  have high : (roundAt rd neg m e precise).1 ≤ 2 ^ (f.fracBits + 1) := roundAt_le_two_pow rd neg (by push_cast; omega)
  have unfolded : f.tiny rd neg m e = true ↔
      precise < f.minExp ∧ ¬(precise + 1 = f.minExp ∧ (roundAt rd neg m e precise).1 = 2 ^ (f.fracBits + 1)) := by
    simp [Format.tiny, precise, imp_iff_not_or]
  rw [unfolded]
  generalize (roundAt rd neg m e precise).1 = kept at *
  generalize precise = x at *
  rcases lt_trichotomy (x + 1) f.minExp with subnormal | last | normal
  · have : 2 ^ (f.fracBits + 1 + 1) ≤ 2 ^ (f.minExp + f.fracBits - x).toNat :=
      Nat.pow_le_pow_right two_pos (by omega)
    rw [pow_succ] at this
    have : 0 < 2 ^ (f.fracBits + 1) := by positivity
    omega
  · rw [show (f.minExp + f.fracBits - x).toNat = f.fracBits + 1 by omega]
    omega
  · have : 2 ^ (f.minExp + f.fracBits - x).toNat ≤ 2 ^ f.fracBits := Nat.pow_le_pow_right two_pos (by omega)
    omega

/-- The bits of a rounded number that does not overflow stand for the rounded multiple of the last bit's weight. -/
theorem unpack_roundedBits {f : Format} (hf : f ∈ [binary32, binary64]) (rd : BitVec 2) (neg : Bool) {m : Nat} {e : Int}
    (hm : m ≠ 0) (fits : f.roundedBits rd neg m e < f.infBits) :
    ∃ m' e', f.unpack (f.signed neg (f.roundedBits rd neg m e)) = .fin neg m' e' ∧ f.lsb m e ≤ e' ∧
      m' * 2 ^ (e' - f.lsb m e).toNat = (roundAt rd neg m e (f.lsb m e)).1 := by
  obtain ⟨m', e', unpacked, least', value⟩ := unpack_signed_scaled hf neg fits
  have narrow := (bounds_of_unpack_fin unpacked).1
  have least := minExp_le_lsb f m e
  have atLeast := le_kept f rd neg (e := e) hm
  rw [scaled_roundedBits f rd neg hm] at value
  generalize f.lsb m e = x at *
  generalize (roundAt rd neg m e x).1 = kept at *
  have notBelow : x ≤ e' := by
    by_contra below
    have : m' * 2 ^ (e' - f.minExp).toNat < kept * 2 ^ (x - f.minExp).toNat :=
      calc m' * 2 ^ (e' - f.minExp).toNat
          < 2 ^ (f.fracBits + 1) * 2 ^ (e' - f.minExp).toNat := Nat.mul_lt_mul_of_pos_right narrow (by positivity)
        _ = 2 ^ f.fracBits * 2 ^ ((e' - f.minExp).toNat + 1) := by ring
        _ ≤ kept * 2 ^ (x - f.minExp).toNat :=
            Nat.mul_le_mul (atLeast (by omega)) (Nat.pow_le_pow_right two_pos (by omega))
    omega
  refine ⟨m', e', unpacked, notBelow, Nat.eq_of_mul_eq_mul_right (Nat.two_pow_pos (x - f.minExp).toNat) ?_⟩
  rw [← value, mul_assoc, ← pow_add]
  congr 2
  omega

/-! ### An exact result and what it gives in a format -/

/-- What an exact result that is not an invalid operation gives in a format. -/
def Exact.Gives (f : Format) (rd : BitVec 2) (r : BitVec 64 × BitVec 5) : Exact → Prop
  | .invalid => False
  | .inf neg dz => (f.signed neg f.infBits, excSet false false false dz false) = r
  | .num neg m e => f.round rd neg m e = r

theorem deliver_of_gives {rule : FpNanRule} {op : FpOp} {a b : BitVec 64} {rd : BitVec 2} {r : BitVec 64 × BitVec 5}
    {x : Exact} (h : x.Gives (resultFormat op) rd r) : deliver rule op a b rd x = r := by
  cases x with
  | invalid => exact h.elim
  | inf neg dz => exact h
  | num neg m e => exact h

/-- An operation on operands that are numbers. -/
theorem fpArith_of_gives {rule : FpNanRule} {op : FpOp} {a b : BitVec 64} {rd : BitVec 2} {r : BitVec 64 × BitVec 5}
    {na nb : Bool} {ma mb : Nat} {ea eb : Int} (ha : (operandFormat op).unpack a = .fin na ma ea)
    (hb : (operandFormat op).unpack b = .fin nb mb eb)
    (h : (exactResult op rd (.fin na ma ea) (.fin nb mb eb)).Gives (resultFormat op) rd r) :
    fpArith rule op a b rd = r := by
  rw [fpArith, ha, hb]
  exact deliver_of_gives h

/-! ### Sums -/

theorem signedInt_mul (neg : Bool) (m k : Nat) : signedInt neg (m * k) = signedInt neg m * k := by
  cases neg <;> simp [signedInt]

theorem signedInt_not (neg : Bool) (m : Nat) : signedInt (!neg) m = -signedInt neg m := by
  cases neg <;> simp [signedInt]

theorem signedInt_natAbs_eq (neg : Bool) (m : Nat) : (signedInt neg m).natAbs = m := by
  cases neg <;> simp [signedInt]

/-- The sign and magnitude of a nonzero multiple. -/
theorem of_signedInt_eq_mul {neg : Bool} {m k : Nat} {s : Int} (hm : m ≠ 0) (h : signedInt neg m = s * k) :
    s ≠ 0 ∧ decide (s < 0) = neg ∧ s.natAbs * k = m := by
  have magnitude : s.natAbs * k = m := by
    rw [← signedInt_natAbs_eq neg m, h, Int.natAbs_mul, Int.natAbs_natCast]
  have positive : 0 < (k : Int) := Int.natCast_pos.2 (Nat.pos_of_ne_zero (by rintro rfl; exact hm magnitude.symm))
  have product : s < 0 ↔ signedInt neg m < 0 := by rw [h, mul_neg_iff]; omega
  have sign : signedInt neg m < 0 ↔ neg = true := by cases neg <;> simp [signedInt]; omega
  exact ⟨by rintro rfl; simp at magnitude; omega, Bool.eq_iff_iff.2 (decide_eq_true_iff.trans (product.trans sign)),
    magnitude⟩

/-- A number at a lower exponent, by way of an exponent between. -/
theorem mul_two_pow_lower (m : Nat) {e c x : Int} (h : x ≤ c) (k : c ≤ e) :
    m * 2 ^ (e - x).toNat = m * 2 ^ (e - c).toNat * 2 ^ (c - x).toNat := by
  rw [mul_assoc, ← pow_add]
  congr 2
  omega

section
variable (f : Format) (rd : BitVec 2) {na nb : Bool} {ma mb : Nat} {ea eb e : Int} (ha : e ≤ ea) (hb : e ≤ eb)
include ha hb

/-- A nonzero sum is rounded as every number that equals it. -/
theorem addNumbers_gives {neg : Bool} {m : Nat} (hm : m ≠ 0)
    (h : signedInt neg m = signedInt na (ma * 2 ^ (ea - e).toNat) + signedInt nb (mb * 2 ^ (eb - e).toNat)) :
    (addNumbers rd na ma ea nb mb eb).Gives f rd (f.round rd neg m e) := by
  have lower : e ≤ min ea eb := le_min ha hb
  rw [mul_two_pow_lower ma lower (min_le_left ..), mul_two_pow_lower mb lower (min_le_right ..),
    signedInt_mul na (_ * _), signedInt_mul nb (_ * _), ← add_mul] at h
  obtain ⟨nonzero, sign, magnitude⟩ := of_signedInt_eq_mul hm h
  simp only [addNumbers, if_neg nonzero, sign]
  refine round_congr f rd neg (Int.natAbs_ne_zero.2 nonzero) hm (.inl ?_) (.inl rfl)
  rw [← magnitude, dyadic_lower _ lower]

/-- An exact zero has the sign of IEEE 754. -/
theorem addNumbers_gives_zero (equal : ma * 2 ^ (ea - e).toNat = mb * 2 ^ (eb - e).toNat) (h : na ≠ nb ∨ ma = 0) :
    (addNumbers rd na ma ea nb mb eb).Gives f rd (f.signed (if na = nb then na else decide (rd = 3)) 0, 0) := by
  have lower : e ≤ min ea eb := le_min ha hb
  rw [mul_two_pow_lower ma lower (min_le_left ..), mul_two_pow_lower mb lower (min_le_right ..)] at equal
  have cancelled := Nat.eq_of_mul_eq_mul_right (by positivity) equal
  have zero : signedInt na (ma * 2 ^ (ea - min ea eb).toNat) + signedInt nb (mb * 2 ^ (eb - min ea eb).toNat) = 0 := by
    rw [← cancelled]
    rcases h with opposite | rfl
    · rw [Bool.eq_not.2 opposite, signedInt_not, neg_add_cancel]
    · cases na <;> cases nb <;> simp [signedInt]
  simp only [addNumbers, zero, if_true]
  exact round_zero ..

end

/-! ### Quotients and roots -/

/-- A number that stands for another by the integer comparisons of the obligation. -/
theorem standsFor_of_below {p m exact : Nat} {below : Nat → Nat} {e : Int} {v : ℝ}
    (order : ∀ k, (below k = exact ↔ dyadic k e = v) ∧ (below k < exact ↔ dyadic k e < v) ∧
      (exact < below k ↔ v < dyadic k e))
    (h : below m = exact ∨ m % 2 = 1 ∧ 2 ^ p ≤ m ∧ below (m - 1) < exact ∧ exact < below (m + 1)) :
    StandsFor p m e v := by
  rcases h with equal | ⟨odd, wide, lower, upper⟩
  · exact .inl ((order m).1.1 equal)
  · exact .inr ⟨odd, wide, (order (m - 1)).2.1.1 lower, (order (m + 1)).2.2.1 upper⟩

theorem dyadic_pos {m : Nat} (hm : m ≠ 0) (e : Int) : 0 < dyadic m e :=
  mul_pos (Nat.cast_pos.2 (Nat.pos_of_ne_zero hm)) (two_zpow_pos e)

theorem ne_zero_of_standsFor {p m : Nat} {e : Int} {v : ℝ} (hv : 0 < v) (h : StandsFor p m e v) : m ≠ 0 := by
  rintro rfl
  rcases h with rfl | ⟨odd, -⟩
  · simp [dyadic] at hv
  · simp at odd

/-- The quotient is rounded as every number that stands for it. -/
theorem divNumbers_gives (f : Format) (rd : BitVec 2) (neg : Bool) {ma mb m : Nat} {ea eb e : Int} (ha : ma ≠ 0)
    (hb : mb ≠ 0) (h : StandsFor (f.fracBits + 2) m e (dyadic ma ea / dyadic mb eb)) :
    (divNumbers (f.fracBits + 1) neg ma ea mb eb).Gives f rd (f.round rd neg m e) := by
  obtain ⟨n, d, exact, nonzero, same⟩ := divNumbers_standsFor (f.fracBits + 1) neg ha hb ea eb
  rw [exact]
  exact round_congr f rd neg nonzero (ne_zero_of_standsFor (div_pos (dyadic_pos ha ea) (dyadic_pos hb eb)) h) same h

/-- The root is rounded as every number that stands for it. -/
theorem sqrtData_gives (f : Format) (rd : BitVec 2) {mb m : Nat} {eb e : Int} (hb : mb ≠ 0)
    (h : StandsFor (f.fracBits + 2) m e (Real.sqrt (dyadic mb eb))) :
    (sqrtData (f.fracBits + 1) (.fin false mb eb)).Gives f rd (f.round rd false m e) := by
  obtain ⟨n, d, exact, nonzero, same⟩ := sqrtData_standsFor (f.fracBits + 1) hb eb
  rw [exact]
  exact round_congr f rd false nonzero (ne_zero_of_standsFor (Real.sqrt_pos.2 (dyadic_pos hb eb)) h) same h

/-- Settles O45: rounding at a unit takes a neighbour by direction (`roundAt_cases`); the rounded bits overflow, are tiny
and stand for the rounded multiple as `overflow_iff`, `tiny_iff` and `unpack_roundedBits` say; and each operation hands to
rounding a number that stands for its exact value. -/
theorem roundingDirections : Obligations.RoundingDirections := by
  refine ⟨?unit, ?format, ?operations⟩
  case unit =>
    intro rd neg m e x below unit q
    obtain ⟨inexact, choice⟩ := roundAt_cases rd neg m below
    have positive : 0 < unit := Nat.two_pow_pos _
    have split := Nat.div_add_mod' m unit
    have rest := Nat.mod_lt m positive
    change (roundAt rd neg m e x).2 = (m % unit != 0) at inexact
    change q = m / unit ∧ roundsUp rd neg (m / unit % 2 == 1) (2 * (m % unit)) unit = false ∨
      q = m / unit + 1 ∧ roundsUp rd neg (m / unit % 2 == 1) (2 * (m % unit)) unit = true at choice
    have whole (h : m % unit = 0) : roundsUp rd neg (m / unit % 2 == 1) (2 * (m % unit)) unit = false := by
      rw [h]; exact roundsUp_exact rd neg _ positive
    refine ⟨by rw [inexact, bne_iff_ne], ?_⟩
    clear_value unit q
    generalize m / unit = n, m % unit = r at *
    rcases choice with ⟨rfl, down⟩ | ⟨rfl, up⟩
    · rw [← Bool.not_eq_true] at down
      refine ⟨fun _ => by omega, .inl rfl, ?_, fun _ => by omega, ?_, ?_⟩
      · rintro rfl
        rw [roundsUp_nearest, beq_iff_eq] at down
        omega
      · rintro rfl
        rw [roundsUp_up] at down
        cases neg <;> simp at down ⊢ <;> omega
      · rintro rfl
        rw [roundsUp_down] at down
        cases neg <;> simp at down ⊢ <;> omega
    · rw [Nat.succ_mul]
      refine ⟨fun h => by simp [whole h] at up, .inr rfl, ?_, ?_, ?_, ?_⟩
      · rintro rfl
        rw [roundsUp_nearest, beq_iff_eq] at up
        omega
      · rintro rfl
        exact absurd ((roundsUp_zero ..).symm.trans up) Bool.false_ne_true
      · rintro rfl
        obtain ⟨rfl, -⟩ := (roundsUp_up ..).1 up
        rw [if_neg Bool.false_ne_true]
        omega
      · rintro rfl
        obtain ⟨rfl, -⟩ := (roundsUp_down ..).1 up
        rw [if_pos rfl]
        omega
  case format =>
    intro f hf rd neg m e hm precise rounded past tiny
    have overflow := overflow_iff hf rd neg e hm
    refine ⟨fun h => ?_, fun h => ?_⟩
    · rw [round_of_overflow f rd neg hm (overflow.2 h), overflowsToInf_eq]
      simp only [decide_eq_true_eq]
      rfl
    · have fits := not_le.1 (mt overflow.1 h)
      rw [round_of_fits f rd neg hm fits]
      refine ⟨?_, unpack_roundedBits hf rd neg hm fits⟩
      have isTiny : f.tiny rd neg m e = decide tiny := by
        rw [Bool.eq_iff_iff, decide_eq_true_iff]
        exact tiny_iff f rd neg e hm
      change excSet false false (f.tiny rd neg m e && rounded.2) false rounded.2 = _
      rw [isTiny]
      rcases rounded.2 with _ | _
      · simp only [Bool.and_false, if_true]
        decide
      · by_cases h : tiny <;> simp only [h, decide_true, decide_false, if_true, if_false] <;> decide
  case operations =>
    intro double rule a b rd na nb ma mb ea eb f gives ha hb
    have add {r} (h : (addNumbers rd na ma ea nb mb eb).Gives f rd r) : gives .addS .addD = r := by
      cases double <;> exact fpArith_of_gives ha hb h
    have sub {r} (h : (addNumbers rd na ma ea (!nb) mb eb).Gives f rd r) : gives .subS .subD = r := by
      cases double <;> exact fpArith_of_gives ha hb h
    have mul {r} (h : f.round rd (na ^^ nb) (ma * mb) (ea + eb) = r) : gives .mulS .mulD = r := by
      cases double <;> exact fpArith_of_gives ha hb h
    have div {r} (h : (divData (f.fracBits + 1) (.fin na ma ea) (.fin nb mb eb)).Gives f rd r) :
        gives .divS .divD = r := by
      cases double <;> exact fpArith_of_gives ha hb h
    have sqrt {r} (h : (sqrtData (f.fracBits + 1) (.fin nb mb eb)).Gives f rd r) : gives .sqrtS .sqrtD = r := by
      cases double <;> exact fpArith_of_gives ha hb h
    refine ⟨fun neg m e hm below_a below_b => ⟨fun h => ?_, fun h => ?_⟩,
      fun e below_a below_b equal => ⟨fun h => ?_, fun h => ?_⟩, mul rfl, fun hma hmb => div ?_, fun hma hmb => div ?_,
      fun hmb => sqrt ?_, fun m e hmb => ⟨fun hma h => div ?_, fun positive h => ?_⟩⟩
    · exact add (addNumbers_gives f rd below_a below_b hm h)
    · exact sub (addNumbers_gives f rd below_a below_b hm (by rw [signedInt_not, ← sub_eq_add_neg]; exact h))
    · exact add (addNumbers_gives_zero f rd below_a below_b equal h)
    · exact sub (addNumbers_gives_zero f rd below_a below_b equal (h.imp_left fun same => by simp [same]))
    · simp only [divData, hmb, if_true, if_neg hma]
      rfl
    · simp only [divData, if_neg hmb, if_pos hma]
      exact round_zero ..
    · simp only [sqrtData, if_pos hmb]
      exact round_zero ..
    · simp only [divData, if_neg hmb, if_neg hma]
      exact divNumbers_gives f rd _ hma hmb (standsFor_of_below (fun k => quotient_iff k ma mb e ea eb hmb) h)
    · subst positive
      exact sqrt (sqrtData_gives f rd hmb (standsFor_of_below (fun k => root_iff k mb e eb) h))

end Sys2Proof.Machine

/-! PROOF. NaN operands and invalid operations of the arithmetic of one format (45_floating_point R903). -/

namespace Sys2Proof.Machine

/-! ### Data that are NaN -/

/-- Whether bits stand for a signaling NaN: the first bit of the fraction is clear. -/
def Format.isSignaling (f : Format) (bits : BitVec 64) : Bool := f.isNan bits && !bits.getLsbD (f.fracBits - 1)

theorem unpack_of_isNan {f : Format} {bits : BitVec 64} (h : f.isNan bits = true) :
    f.unpack bits = .nan (f.isSignaling bits) := by
  have above : f.infBits < f.magnitude bits := of_decide_eq_true h
  rw [unpack_eq_of_magnitude, if_neg above.not_gt, if_neg above.ne', Format.isSignaling, h, Bool.true_and]

theorem unpack_ne_nan {f : Format} {bits : BitVec 64} (h : f.isNan bits = false) (signaling : Bool) :
    f.unpack bits ≠ .nan signaling := by
  have within : ¬f.infBits < f.magnitude bits := of_decide_eq_false h
  rw [unpack_eq_of_magnitude]
  split_ifs
  · simp
  · simp
  · simp
  · omega

theorem isSignaling_of_not_isNan {f : Format} {bits : BitVec 64} (h : f.isNan bits = false) :
    f.isSignaling bits = false := by
  rw [Format.isSignaling, h, Bool.false_and]

section
variable {op : FpOp} {a b : BitVec 64} {rd : BitVec 2}

/-- The NaN of rs2 goes before every operand of rs1. -/
theorem fpArith_nan_right (hb : (operandFormat op).isNan b = true) : fpArith .sparcV8 op a b rd =
    (quietNan op b,
      if (operandFormat op).isSignaling a || (operandFormat op).isSignaling b then excNv else 0) := by
  cases ha : (operandFormat op).isNan a with
  | true => rw [fpArith, unpack_of_isNan ha, unpack_of_isNan hb]; rfl
  | false =>
    rw [fpArith, unpack_of_isNan hb, isSignaling_of_not_isNan ha, Bool.false_or]
    have number := unpack_ne_nan ha
    revert number
    cases (operandFormat op).unpack a with
    | nan signaling => exact fun number => absurd rfl (number signaling)
    | inf neg => exact fun _ => rfl
    | fin neg m e => exact fun _ => rfl

theorem fpArith_nan_left (hb : (operandFormat op).isNan b = false) (ha : (operandFormat op).isNan a = true) :
    fpArith .sparcV8 op a b rd =
      (quietNan op a,
        if (operandFormat op).isSignaling a || (operandFormat op).isSignaling b then excNv else 0) := by
  rw [fpArith, unpack_of_isNan ha, isSignaling_of_not_isNan hb, Bool.or_false]
  have number := unpack_ne_nan hb
  revert number
  cases (operandFormat op).unpack b with
  | nan signaling => exact fun number => absurd rfl (number signaling)
  | inf neg => exact fun _ => rfl
  | fin neg m e => exact fun _ => rfl

/-- An invalid operation without a NaN operand gives the default NaN. -/
theorem fpArith_of_invalid {x y : Datum} (ha : (operandFormat op).unpack a = x) (hb : (operandFormat op).unpack b = y)
    (hx : ∀ signaling, x ≠ .nan signaling) (hy : ∀ signaling, y ≠ .nan signaling)
    (invalid : exactResult op rd x y = .invalid) :
    fpArith .sparcV8 op a b rd = (defaultNan (resultFormat op), excNv) := by
  have delivered : deliver .sparcV8 op a b rd (exactResult op rd x y) = (defaultNan (resultFormat op), excNv) := by
    rw [invalid]; rfl
  rw [fpArith, ha, hb, ← delivered]
  cases x with
  | nan signaling => exact absurd rfl (hx signaling)
  | inf neg => cases y with
    | nan signaling => exact absurd rfl (hy signaling)
    | inf neg => rfl
    | fin neg m e => rfl
  | fin neg m e => cases y with
    | nan signaling => exact absurd rfl (hy signaling)
    | inf neg => rfl
    | fin neg m e => rfl

end

/-! ### The operations of one format -/

/-- The operations of the obligation on single operands: the arithmetic of binary32. -/
theorem single_operations {op : FpOp} (h : op ∈ [FpOp.addS, .subS, .mulS, .divS, .sqrtS]) :
    operandFormat op = binary32 ∧ (∀ n, quietNan op n = n ||| BitVec.ofNat 64 (2 ^ 22)) ∧
      ∀ rule a b rd, fpReference rule op a b rd = fpArith rule op a b rd := by
  simp only [List.mem_cons, List.not_mem_nil, or_false] at h
  rcases h with rfl | rfl | rfl | rfl | rfl <;> exact ⟨rfl, fun _ => rfl, fun _ _ _ _ => rfl⟩

/-- The operations of the obligation on double operands: the arithmetic of binary64. -/
theorem double_operations {op : FpOp} (h : op ∈ [FpOp.addD, .subD, .mulD, .divD, .sqrtD]) :
    operandFormat op = binary64 ∧ (∀ n, quietNan op n = n ||| BitVec.ofNat 64 (2 ^ 51)) ∧
      ∀ rule a b rd, fpReference rule op a b rd = fpArith rule op a b rd := by
  simp only [List.mem_cons, List.not_mem_nil, or_false] at h
  rcases h with rfl | rfl | rfl | rfl | rfl <;> exact ⟨rfl, fun _ => rfl, fun _ _ _ _ => rfl⟩

theorem isNan_single (v : Word) : binary32.isNan (v.zeroExtend 64) = decide (0x7F800000 < v.toNat % 2 ^ 31) := by
  rw [Format.isNan, Format.magnitude, BitVec.toNat_setWidth_of_le (by decide)]
  rfl

theorem isSignaling_single (v : Word) :
    binary32.isSignaling (v.zeroExtend 64) = (decide (0x7F800000 < v.toNat % 2 ^ 31) && !v.getLsbD 22) := by
  rw [Format.isSignaling, isNan_single]
  simp [binary32]

theorem quiet_single (v : Word) :
    v.zeroExtend 64 ||| BitVec.ofNat 64 (2 ^ 22) = (v ||| 0x00400000).zeroExtend 64 :=
  (BitVec.setWidth_or (x := v) (y := 0x00400000#32) (k := 64)).symm

/-- The square root of a negative number other than -0 is invalid. -/
theorem sqrtData_negative (p : Nat) {y : Datum} (h : y = .inf true ∨ ∃ m e, m ≠ 0 ∧ y = .fin true m e) :
    sqrtData p y = .invalid := by
  rcases h with rfl | ⟨m, e, hm, rfl⟩
  · rfl
  · simp [sqrtData, hm]

/-- Settles O44: a NaN operand is returned quieted (`fpArith_nan_right`, `fpArith_nan_left`), and the invalid operations
are those whose exact result is `Exact.invalid`. -/
theorem nanOperands : Obligations.NanOperands := by
  refine ⟨?single, ?double, ?invalid⟩
  case single =>
    intro op member a b rd nan signaling r exc _
    obtain ⟨format, quiet, reference⟩ := single_operations member
    have exceptions : (if binary32.isSignaling (a.zeroExtend 64) || binary32.isSignaling (b.zeroExtend 64) then excNv
        else 0) = exc := by
      rw [isSignaling_single, isSignaling_single]; rfl
    refine ⟨fun hb => ?_, fun hb ha => ?_⟩
    · rw [show r = _ from reference .., fpArith_nan_right (by rw [format, isNan_single]; exact hb), quiet, format,
        exceptions, quiet_single]
    · rw [show r = _ from reference .., fpArith_nan_left (by rw [format, isNan_single]; exact hb)
        (by rw [format, isNan_single]; exact ha), quiet, format, exceptions, quiet_single]
  case double =>
    intro op member a b rd nan signaling r exc _
    obtain ⟨format, quiet, reference⟩ := double_operations member
    have exceptions : (if binary64.isSignaling a || binary64.isSignaling b then excNv else 0) = exc := rfl
    refine ⟨fun hb => ?_, fun hb ha => ?_⟩
    · rw [show r = _ from reference .., fpArith_nan_right (by rw [format]; exact hb), quiet, format, exceptions]
      rfl
    · rw [show r = _ from reference .., fpArith_nan_left (by rw [format]; exact hb) (by rw [format]; exact ha), quiet,
        format, exceptions]
      rfl
  case invalid =>
    intro double a b rd f nan invalid zero inf x y
    have opposite (n : Bool) : addData rd (.inf n) (.inf !n) = .invalid := by cases n <;> rfl
    have same (n : Bool) : addData rd (.inf n) (Datum.inf n).negate = .invalid := opposite n
    have mul {u v : Datum} (hx : x = u) (hy : y = v) (hu : ∀ q, u ≠ .nan q) (hv : ∀ q, v ≠ .nan q)
        (h : mulData u v = .invalid) : invalid (if double then .mulD else .mulS) := by
      cases double <;> exact fpArith_of_invalid hx hy hu hv h
    have div {u v : Datum} (hx : x = u) (hy : y = v) (hu : ∀ q, u ≠ .nan q) (hv : ∀ q, v ≠ .nan q)
        (h : divData (f.fracBits + 1) u v = .invalid) : invalid (if double then .divD else .divS) := by
      cases double <;> exact fpArith_of_invalid hx hy hu hv h
    refine ⟨fun n hx hy => ?_, fun n hx hy => ?_, ?_, ?_, fun ha hy => ?_⟩
    · cases double <;> exact fpArith_of_invalid hx hy (by simp) (by simp) (opposite n)
    · cases double <;> exact fpArith_of_invalid hx hy (by simp) (by simp) (same n)
    · rintro (⟨⟨n, e, hx⟩, k, hy⟩ | ⟨⟨n, hx⟩, k, e, hy⟩)
      · exact mul hx hy (by simp) (by simp) rfl
      · exact mul hx hy (by simp) (by simp) rfl
    · rintro (⟨⟨n, e, hx⟩, k, d, hy⟩ | ⟨⟨n, hx⟩, k, hy⟩)
      · exact div hx hy (by simp) (by simp) rfl
      · exact div hx hy (by simp) (by simp) rfl
    · have number (q : Bool) : y ≠ .nan q := by rcases hy with h | ⟨m, e, -, h⟩ <;> simp [h]
      have zeroOperand : f.unpack 0 = .fin false 0 f.minExp := by cases double <;> decide
      subst ha
      cases double <;>
        exact fpArith_of_invalid zeroOperand rfl (by simp) number (sqrtData_negative _ hy)

end Sys2Proof.Machine
